-- ==== Sys2Proof/Word.lean ====
section
/-! DEFINITION. The word types of the TDM reflect converter: the widths of `00_scope.md` R6 and of the
formats of `30_encoding.md` R61 to R67, the Step of `10_state.md` R14 and the two fixed-length arrays. -/

namespace Sys2Proof

/-- One byte of a port word laid out in bytes (log entry 15). -/
abbrev Byte := BitVec 8

/-- A brightness level, `LEVEL_W` = 8 bits, unsigned, 0 fully off, 255 fully on (R6, R11). -/
abbrev Level := BitVec 8

/-- A step's bitmask, `MASK_W` = 32 bits; bit `i` (0 to 7) is channel `i` (R6, R14). -/
abbrev Mask := BitVec 32

/-- A step's duration in abstract time units, `DUR_W` = 8 bits (R6, R14). -/
abbrev Duration := BitVec 8

/-- A channel index 0 to 7 (R25: the channel index space). -/
abbrev Channel := Fin 8

/-- A step index 0 to 8 (R25: the step index space; R18 for `IDX`, log entry 13). -/
abbrev StepIndex := Fin 9

/-- Format HC, the host command word (R64). -/
abbrev HcWord := BitVec 66

/-- Format HR, the host response word (R65). -/
abbrev HrWord := BitVec 362

/-- Format ST, the step word (R62). -/
abbrev StWord := BitVec 40

/-- Format TBS, the send word (R66). -/
abbrev TbsWord := BitVec 32

/-- Format TBD, the delay count (R67). -/
abbrev TbdWord := BitVec 16

/-- Format LV, the level vector (R61). -/
abbrev LvWord := BitVec 64

/-- Format SQ, the sequence word (R63). -/
abbrev SqWord := BitVec 360

/-- A Step: the immutable pair (bitmask, duration) of R14. -/
structure Step where
  /-- `.mask`, 32 bits. -/
  mask : Mask
  /-- `.dur`, 8 bits. -/
  dur : Duration
deriving DecidableEq, Repr, Inhabited

/-- The Channel Levels: exactly `N_CH` = 8 levels, channel 0 first (R11, R40). -/
abbrev Levels := Vector Level 8

/-- A Step Sequence: exactly `N_STEP` = 9 Steps, step 0 first (R12, R40). -/
abbrev Sequence := Vector Step 9

end Sys2Proof
end

