-- ==== Sys2Proof/Syntax.lean ====
section
/-! DEFINITION. The instructions: one constructor for each row of `spec/opcode_table.json`, that is, each encoded
operation of `30_encoding.md` R60, and the port formats their words travel in. `DELAY_DONE`, `REFLECT` and
the micro-steps carry no bits and have no row (R60, R77): they are operations of the machine, not syntax. -/

namespace Sys2Proof

/-- The word formats an encoded operation is carried in (`30_encoding.md`, section 2). The formats LV and SQ are
the operands of HC and HR and carry no operation of their own. -/
inductive Format
  /-- Format HC, 66 bits (R64). -/
  | hc
  /-- Format HR, 362 bits (R65). -/
  | hr
  /-- Format ST, 40 bits (R62). -/
  | st
  /-- Format TBS, 32 bits (R66). -/
  | tbs
  /-- Format TBD, 16 bits (R67). -/
  | tbd
deriving DecidableEq, Repr

/-- Every encoded operation of the block (R60). -/
inductive Instr
  /-- `UPDATE_LEVELS l0, ..., l7` (R148). -/
  | updateLevels (levels : Levels)
  /-- `READ_SNAPSHOT` (R149). -/
  | readSnapshot
  /-- An illegal host word with `op = 0b00` (R150). -/
  | illegalOp00 (arg : LvWord)
  /-- An illegal host word with `op = 0b11` (R150). -/
  | illegalOp11 (arg : LvWord)
  /-- An illegal host word with `op = 0b10` and `arg` not 0 (R150). -/
  | illegalRdArg (arg : LvWord)
  /-- The response `ACK` (R147). -/
  | ack
  /-- The response `DATA` with the nine Steps it carries (R147). -/
  | data (steps : Sequence)
  /-- The response `ERR` (R147). -/
  | err
  /-- The step word `SKIP`: duration 0, a mask that is not looked at (R114). -/
  | skip (mask : Mask)
  /-- The step word `EMIT`: a mask and a duration of 1 to 255 (R119). -/
  | emit (mask : Mask) (dur : Duration)
  /-- The boundary request `SEND word` (R171). -/
  | send (word : TbsWord)
  /-- The boundary request `DELAY count` (R172). -/
  | delay (count : TbdWord)
deriving DecidableEq, Repr

/-- The format of an instruction's word (R60, column "carried in"). -/
def Instr.format : Instr → Format
  | .updateLevels _ => .hc
  | .readSnapshot => .hc
  | .illegalOp00 _ => .hc
  | .illegalOp11 _ => .hc
  | .illegalRdArg _ => .hc
  | .ack => .hr
  | .data _ => .hr
  | .err => .hr
  | .skip _ => .st
  | .emit _ _ => .st
  | .send _ => .tbs
  | .delay _ => .tbd

end Sys2Proof
end

