-- ==== Sys2Proof/WellFormed.lean ====
section
/-! DEFINITION. Which terms of `Instr` stand for a word. Two operands are restricted by the operation map: an illegal
read word has a non-zero `arg` (`30_encoding.md` R68), and an `EMIT` a non-zero duration (R71). Every other
operand takes every value of its width (R69: no range check). -/

namespace Sys2Proof

/-- `i` is an operation that some word of its format encodes. -/
def Instr.wellFormed : Instr → Bool
  | .updateLevels _ => true
  | .readSnapshot => true
  | .illegalOp00 _ => true
  | .illegalOp11 _ => true
  | .illegalRdArg arg => arg != 0
  | .ack => true
  | .data _ => true
  | .err => true
  | .skip _ => true
  | .emit _ dur => dur != 0
  | .send _ => true
  | .delay _ => true

end Sys2Proof
end

