-- ==== Sys2Proof/Decode.lean ====
section
/-! DEFINITION. Decoding and encoding of the port words (`30_encoding.md` R61 to R74), bit 0 being the least significant
bit and element 0 of an array in the least significant bits (R41, decision D6). The host command and step word
decoders are total (R74); the response decoder refuses by name what R70 says is never produced. -/

namespace Sys2Proof

/-! ## Packing -/

/-- The number whose base-`2^w` digits are the elements of the list, element 0 least significant (R41). -/
def packLittle (w : Nat) : List (BitVec w) → Nat
  | [] => 0
  | x :: xs => x.toNat + 2 ^ w * packLittle w xs

/-- Format LV: the level of channel `c` is `LV[8c+7 : 8c]` (R61). -/
def unpackLevels (lv : LvWord) : Levels := Vector.ofFn fun c => lv.extractLsb' (8 * c.val) 8

/-- The level vector of eight levels (R61). -/
def packLevels (l : Levels) : LvWord := BitVec.ofNat 64 (packLittle 8 l.toList)

/-- Format ST: `ST[31:0]` is the bitmask, `ST[39:32]` the duration (R62). -/
def stepOfWord (w : StWord) : Step := ⟨w.extractLsb' 0 32, w.extractLsb' 32 8⟩

/-- The step word of a Step (R62). -/
def stepWord (s : Step) : StWord := s.dur ++ s.mask

/-- Format SQ: step `k` is `SQ[40k+39 : 40k]` (R63). -/
def unpackSequence (sq : SqWord) : Sequence :=
  Vector.ofFn fun k => stepOfWord (sq.extractLsb' (40 * k.val) 40)

/-- The sequence word of nine Steps (R63). -/
def packSequence (s : Sequence) : SqWord := BitVec.ofNat 360 (packLittle 40 (s.toList.map stepWord))

/-! ## Fields and words of the two host port formats -/

/-- `op = HC[65:64]` (R64). -/
def hcOp (w : HcWord) : BitVec 2 := w.extractLsb' 64 2

/-- `arg = HC[63:0]` (R64). -/
def hcArg (w : HcWord) : LvWord := w.extractLsb' 0 64

/-- The host command word of an `op` and an `arg` (R64). -/
def hcWord (op : BitVec 2) (arg : LvWord) : HcWord := op ++ arg

/-- `kind = HR[361:360]` (R65). -/
def hrKind (w : HrWord) : BitVec 2 := w.extractLsb' 360 2

/-- `data = HR[359:0]` (R65). -/
def hrData (w : HrWord) : SqWord := w.extractLsb' 0 360

/-- The host response word of a `kind` and a `data` (R65). -/
def hrWord (kind : BitVec 2) (data : SqWord) : HrWord := kind ++ data

/-! ## The decoders, one for each format -/

/-- Why a list of bytes is no word of its format. -/
inductive DecodeError
  /-- The format has one fixed length (R73) and this is not it. -/
  | wrongLength
  /-- A bit above the format's width is set (log entry 15). -/
  | paddingNotZero
  /-- A response with `kind = 0b00`, which is never produced (R70). -/
  | reservedKind
  /-- An `ACK` whose `data` is not 0 (R70, log entry 26). -/
  | ackDataNotZero
  /-- An `ERR` whose `data` is not 0 (R70, log entry 26). -/
  | errDataNotZero
deriving DecidableEq, Repr

/-- The host command map (R68): `op` first, then `arg`; total on the 66-bit words (R74). -/
def decodeHostCommand (w : HcWord) : Instr :=
  if hcOp w = 0b01 then .updateLevels (unpackLevels (hcArg w))
  else if hcOp w = 0b10 then
    if hcArg w = 0 then .readSnapshot else .illegalRdArg (hcArg w)
  else if hcOp w = 0b00 then .illegalOp00 (hcArg w)
  else .illegalOp11 (hcArg w)

/-- The host response map (R70). -/
def decodeResponse (w : HrWord) : Except DecodeError Instr :=
  if hrKind w = 0b01 then
    if hrData w = 0 then .ok .ack else .error .ackDataNotZero
  else if hrKind w = 0b10 then .ok (.data (unpackSequence (hrData w)))
  else if hrKind w = 0b11 then
    if hrData w = 0 then .ok .err else .error .errDataNotZero
  else .error .reservedKind

/-- The step word map (R71): `dur = 0` is `SKIP`, every other word `EMIT`; total (R74). -/
def decodeStepWord (w : StWord) : Instr :=
  if (stepOfWord w).dur = 0 then .skip (stepOfWord w).mask
  else .emit (stepOfWord w).mask (stepOfWord w).dur

/-- Format TBS (R66): every 32-bit word is a `SEND`. -/
def decodeSend (w : TbsWord) : Instr := .send w

/-- Format TBD (R67): every 16-bit count is a `DELAY` (log entry 27 for the count 0). -/
def decodeDelay (w : TbdWord) : Instr := .delay w

/-! ## Bytes -/

/-- The width of a format in bits (R62, R64 to R67). -/
def Format.width : Format → Nat
  | .hc => 66
  | .hr => 362
  | .st => 40
  | .tbs => 32
  | .tbd => 16

/-- The bytes a format's word takes, the last one padded with zero bits (log entry 15). -/
def Format.byteCount (f : Format) : Nat := (f.width + 7) / 8

/-- The number a list of bytes stands for, the first byte least significant (log entry 15). -/
def wordOfBytes (bytes : List Byte) : Nat := packLittle 8 bytes

/-- The first `n` bytes of a number, least significant first. -/
def bytesOfWord : Nat → Nat → List Byte
  | 0, _ => []
  | n + 1, w => BitVec.ofNat 8 w :: bytesOfWord n (w / 256)

/-- The instruction whose word, a number below `2 ^ width`, is on a port of format `f`. -/
def decodeWord (f : Format) (w : Nat) : Except DecodeError Instr :=
  match f with
  | .hc => .ok (decodeHostCommand (BitVec.ofNat 66 w))
  | .hr => decodeResponse (BitVec.ofNat 362 w)
  | .st => .ok (decodeStepWord (BitVec.ofNat 40 w))
  | .tbs => .ok (decodeSend (BitVec.ofNat 32 w))
  | .tbd => .ok (decodeDelay (BitVec.ofNat 16 w))

/-- Decoding of any list of bytes as a word of format `f`. The format is known from the port (R73). -/
def decode (f : Format) (bytes : List Byte) : Except DecodeError Instr :=
  if bytes.length ≠ f.byteCount then .error .wrongLength
  else if wordOfBytes bytes >>> f.width ≠ 0 then .error .paddingNotZero
  else decodeWord f (wordOfBytes bytes)

/-- The format whose row the opcode table gives `nbits` bits, counted in whole bytes (R73: the widths differ). -/
def formatOfBits (nbits : Nat) : Option Format :=
  match (nbits + 7) / 8 with
  | 9 => some .hc
  | 46 => some .hr
  | 5 => some .st
  | 4 => some .tbs
  | 2 => some .tbd
  | _ => none

/-- The instruction the decoder reads from a table row's word `w` of `nbits` bits. -/
def decodeTableWord (nbits w : Nat) : Option Instr :=
  match formatOfBits nbits with
  | none => none
  | some f =>
    match decode f (bytesOfWord f.byteCount w) with
    | .ok i => some i
    | .error _ => none

/-! ## The encoder -/

/-- The word of a host command (R61, R64, R68); 0 for an instruction of another port. -/
def encodeHostCommand : Instr → HcWord
  | .updateLevels l => hcWord 0b01 (packLevels l)
  | .readSnapshot => hcWord 0b10 0
  | .illegalOp00 arg => hcWord 0b00 arg
  | .illegalOp11 arg => hcWord 0b11 arg
  | .illegalRdArg arg => hcWord 0b10 arg
  | .ack | .data _ | .err | .skip _ | .emit _ _ | .send _ | .delay _ => 0

/-- The word of a host response (R63, R65, R70); 0 for an instruction of another port. -/
def encodeResponse : Instr → HrWord
  | .ack => hrWord 0b01 0
  | .data steps => hrWord 0b10 (packSequence steps)
  | .err => hrWord 0b11 0
  | .updateLevels _ | .readSnapshot | .illegalOp00 _ | .illegalOp11 _ | .illegalRdArg _ => 0
  | .skip _ | .emit _ _ | .send _ | .delay _ => 0

/-- The word of an instruction as a number, bit 0 least significant (R61 to R71). -/
def encodeWord (i : Instr) : Nat :=
  match i with
  | .updateLevels _ | .readSnapshot | .illegalOp00 _ | .illegalOp11 _ | .illegalRdArg _ =>
    (encodeHostCommand i).toNat
  | .ack | .data _ | .err => (encodeResponse i).toNat
  | .skip mask => (stepWord ⟨mask, 0⟩).toNat
  | .emit mask dur => (stepWord ⟨mask, dur⟩).toNat
  | .send word => word.toNat
  | .delay count => count.toNat

/-- The bytes of an instruction's word on its port. -/
def encode (i : Instr) : List Byte := bytesOfWord i.format.byteCount (encodeWord i)

end Sys2Proof
end

