-- ==== Sys2Proof/Config.lean ====
section
/-! DEFINITION. What is fixed for the machine and not changed by it: the parameters of `00_scope.md` R6 and R7, the shape of
what the outside does at one turn (R9, R188), and the free values: the schedule of the agents together with what the outside
offers (R9, R155), and what the output lines show before the first word (`43_boundary.md` R176). -/

namespace Sys2Proof

namespace Config

/-- `CYCLE` = 255, the sum of the nine durations (R6). -/
def cycle : Duration := 255

/-- `MASK_INIT` = `0x000000FF`, the bitmask `reflect` starts from (R6). -/
def maskInit : Mask := 0x000000FF

end Config

/-- The time quantum `Q` with its legal range `1 ≤ Q ≤ 257` (R7): no other value is a configuration of this block. -/
structure Quantum where
  /-- The number of boundary time units per abstract time unit. -/
  val : Nat
  /-- `Q = 0` is not a configuration (R7). -/
  pos : 1 ≤ val
  /-- `Q > 257` is not a configuration (R7). -/
  le : val ≤ 257
deriving DecidableEq, Repr

namespace Config

/-- The reference value `Q = 10` (R7). -/
def refQuantum : Quantum := ⟨10, by decide, by decide⟩

/-- The configuration `Q = n`, where there is one (R7, U18). -/
def quantumOf (n : Nat) : Option Quantum :=
  if h : 1 ≤ n ∧ n ≤ 257 then some ⟨n, h.1, h.2⟩ else none

end Config

/-- The three agents that take steps (R9, R197). -/
inductive Agent
  /-- The host engine (`42_host_port.md`). -/
  | host
  /-- The streamer (`41_streamer.md`). -/
  | strm
  /-- The external boundary (`43_boundary.md`). -/
  | boundary
deriving DecidableEq, Repr, Inhabited

/-- How much an agent does in one turn (log entry 2). -/
inductive Grain
  /-- One micro-step (R9). -/
  | micro
  /-- One whole instruction, as far as its micro-steps are enabled (R57, R119, R148 to R150). -/
  | whole
deriving DecidableEq, Repr, Inhabited

/-- What the outside does at a turn: the four things that reach the block (R188; log entry 4). -/
structure Inputs where
  /-- The command word the host offers at the host port, if it offers one (R140, R155). -/
  offer : Option HcWord
  /-- The host is ready to take a response (R140, R155). -/
  hostReady : Bool
  /-- The boundary accepts a `SEND` word (R115, R171). -/
  tbReady : Bool
  /-- Inside a whole `EMIT`: the boundary ends the delay (R172, R173). -/
  tbDone : Bool
deriving DecidableEq, Repr, Inhabited

/-- One entry of a schedule: who takes a turn, how much of it, and what the outside does meanwhile. -/
structure Turn where
  /-- The agent whose turn it is. -/
  agent : Agent
  /-- One micro-step or one whole instruction. -/
  grain : Grain
  /-- The inputs at this turn. -/
  inputs : Inputs
deriving DecidableEq, Repr, Inhabited

namespace Config

/-- FREE VALUE: the turn taken when no schedule is given. The specification fixes no order among the agents and nothing of
what the outside does (R9, R49, R155, U6, U7, U13); log entry 1. -/
opaque freeTurn : Nat → Turn

/-- FREE VALUE: what the eight output lines show before the first word is taken (R176, U15, N14); log entry 11. -/
opaque lineAtReset : BitVec 8

end Config

end Sys2Proof
end

