-- ==== Sys2Proof/Machine/Reflect.lean ====
section
/-! DEFINITION. The `REFLECT` transform (`40_reflect.md` R90 to R95): from eight levels to nine Steps, by the algorithm
the specification writes out. It reads nothing but its argument and cannot fail (R90). -/

namespace Sys2Proof.Machine

/-- The sort key `l[c] × 8 + c` (R91): different for every channel, lower channel first among equal levels. -/
def sortKey (l : Levels) (c : Channel) : Nat := l[c].toNat * 8 + c.val

/-- The channels 0 to 7 in index order. -/
def channels : List Channel := [0, 1, 2, 3, 4, 5, 6, 7]

/-- `ord`: the channels sorted by the key, ascending (R91). -/
def sortChannels (l : Levels) : List Channel :=
  channels.insertionSort fun a b => sortKey l a ≤ sortKey l b

/-- `mask` with bit `c` cleared (R93). -/
def clearChannel (mask : Mask) (c : Channel) : Mask := mask &&& ~~~(1#32 <<< c.val)

/-- The loop of R93 over the rest of `ord`, and the trailing step of R94. -/
def reflectLoop (l : Levels) : List Channel → Mask → Duration → List Step
  | [], _, prev => [⟨0, Config.cycle - prev⟩]
  | c :: rest, mask, prev => ⟨mask, l[c] - prev⟩ :: reflectLoop l rest (clearChannel mask c) l[c]

/-- The Steps of `REFLECT(l)`, step 0 first: the loop from `mask = 0x000000FF`, `prev = 0` (R92). -/
def reflectSteps (l : Levels) : List Step := reflectLoop l (sortChannels l) Config.maskInit 0

/-- The loop makes one Step for each channel and the trailing one (R93, R94). -/
theorem reflectLoop_length (l : Levels) (cs : List Channel) (m : Mask) (p : Duration) :
    (reflectLoop l cs m p).length = cs.length + 1 := by
  induction cs generalizing m p with
  | nil => rfl
  | cons c cs ih => simp [reflectLoop, ih]

/-- A sequence has exactly nine Steps (R12). -/
theorem reflectSteps_length (l : Levels) : (reflectSteps l).length = 9 := by
  simp only [reflectSteps, reflectLoop_length, sortChannels, List.length_insertionSort, channels]
  rfl

/-- `REFLECT(l)` (R90). -/
def reflect (l : Levels) : Sequence := ⟨(reflectSteps l).toArray, by simp [reflectSteps_length]⟩

end Sys2Proof.Machine
end

