-- ==== Sys2Proof/Machine/State.lean ====
section
/-! DEFINITION. The state: `Block`, the ten pieces of `10_state.md` R10 and no other; `Boundary`, the reference boundary the block
is closed with (`43_boundary.md` R176); and what a deterministic step needs besides, each field marked as the model's own. -/

namespace Sys2Proof.Machine

/-- `LOCK` (R16): who holds the lock on the shared record. -/
inductive Lock
  /-- `FREE`: nobody. -/
  | free
  /-- `HOST`: the host engine. -/
  | host
  /-- `STRM`: the streamer. -/
  | strm
deriving DecidableEq, Repr

/-- `SPH`, the streamer's phase (R17). -/
inductive SPhase
  /-- `S_ACQ`: wants the lock. -/
  | acq
  /-- `S_COPY`: holds the lock, copy not yet made. -/
  | copy
  /-- `S_REL`: holds the lock, copy made. -/
  | rel
  /-- `S_STEP`: looking at `SNAP[IDX]`. -/
  | step
  /-- `S_DLY`: word sent, delay not yet asked. -/
  | dly
  /-- `S_WAIT`: delay asked, not yet ended. -/
  | wait
deriving DecidableEq, Repr

/-- `HPH`, the host engine's phase (R19). -/
inductive HPhase
  /-- `H_IDLE`: no command in hand. -/
  | idle
  /-- `H_ACQ`: legal command latched, wants the lock. -/
  | acq
  /-- `H_WRITE`: holds the lock, levels not yet written. -/
  | write
  /-- `H_REFLECT`: levels written, sequence stale. -/
  | reflect
  /-- `H_COPY`: holds the lock, copy not yet made. -/
  | copy
  /-- `H_REL`: holds the lock, work done. -/
  | rel
  /-- `H_RSP`: lock given back, response not yet taken. -/
  | rsp
deriving DecidableEq, Repr

/-- `HKIND`, what the command in hand is (R21). -/
inductive HKind
  /-- `UPD`: update levels. -/
  | upd
  /-- `RD`: read snapshot. -/
  | rd
  /-- `BAD`: illegal word. -/
  | bad
deriving DecidableEq, Repr

/-- The whole state of the block (R10), field by field. -/
structure Block where
  /-- `LEVELS[0..7]`, 8 × 8 bits (R11). -/
  levels : Levels
  /-- `STEPS[0..8]`, 9 Steps (R12). -/
  steps : Sequence
  /-- `LOCK` (R16). -/
  lock : Lock
  /-- `SPH` (R17). -/
  sph : SPhase
  /-- `IDX`, 0 to 8 (R18; log entry 13). -/
  idx : StepIndex
  /-- `SNAP[0..8]`, the streamer's copy (R20). -/
  snap : Sequence
  /-- `HPH` (R19). -/
  hph : HPhase
  /-- `HKIND` (R21). -/
  hkind : HKind
  /-- `HLV[0..7]`, the new levels of an update (R21). -/
  hlv : Levels
  /-- `HBUF[0..8]`, the response buffer (R22). -/
  hbuf : Sequence
deriving DecidableEq, Repr

/-- The state of the reference boundary (R176), which is outside the block. -/
structure Boundary where
  /-- The word the boundary last took (R26 (c)), `none` while no word has been taken: `LINE` is read from it. -/
  lastWord : Option TbsWord
  /-- `TBPEND`: the count of the delay that runs, or none (R176, R26 (b)). -/
  tbPend : Option TbdWord
  /-- A `DELAY_DONE` has been given and S.RESUME has not yet consumed it (R173; log entry 12). -/
  delayDone : Bool
deriving DecidableEq, Repr

/-- An event of the host trace (R9, R140). -/
inductive HostEvent
  /-- `CMD(w)`: a command word accepted. -/
  | cmd (w : HcWord)
  /-- `RSP(r)`: a response word given. -/
  | rsp (r : HrWord)
deriving DecidableEq, Repr

/-- An event of the boundary trace (R9, R171 to R173). -/
inductive TbEvent
  /-- `SEND word`. -/
  | send (word : TbsWord)
  /-- `DELAY count`. -/
  | delay (count : TbdWord)
  /-- `DELAY_DONE`. -/
  | delayDone
deriving DecidableEq, Repr

/-- A request word standing on the boundary port (R171, R172). -/
inductive TbRequest
  /-- A word of format TBS (R66). -/
  | send (word : TbsWord)
  /-- A count of format TBD (R67). -/
  | delay (count : TbdWord)
deriving DecidableEq, Repr

/-- The state of the closed system: block, reference boundary, and the MODEL'S OWN fields (log entries 1, 4, 5, 10 and 17). -/
structure State extends Block, Boundary where
  /-- `Q`, static: fixed before reset and changed by no step (R7; log entry 10). -/
  quantum : Quantum
  /-- MODEL'S OWN: what the outside does at the turn being taken (R188; log entry 4). -/
  inputs : Inputs
  /-- MODEL'S OWN: a request put on the boundary port by something else than the streamer. There is none at reset and no step puts
  one there (R127); it is the place from which the boundary alone can be made to run a request (log entry 17). -/
  tbPort : Option TbRequest
  /-- MODEL'S OWN, for observation only: the host trace, oldest event first (R9, R27; log entry 5). -/
  hostTrace : List HostEvent
  /-- MODEL'S OWN, for observation only: the boundary trace, oldest event first (R9, R27; log entry 5). -/
  tbTrace : List TbEvent
  /-- MODEL'S OWN: the turns to come, next one first; when empty, each turn is a free value (R9; log entry 1). -/
  sched : List Turn
  /-- MODEL'S OWN: how many turns have been taken, the argument of the free turn (log entry 1). -/
  turnNo : Nat
deriving DecidableEq, Repr

/-- No micro-step of the block can fail and it has no fault bit (R185, R192): there is no fault. -/
inductive Fault
deriving DecidableEq, Repr

/-- Why the model gives no step. -/
inductive Refusal
  /-- An instruction without a meaning in the model. Raised by no arm: every instruction has its meaning. Safe. -/
  | notModelled (mnemonic : String)
  /-- `State.configure` was asked for a `Q` outside 1 to 257, which is no configuration of this block (R7, U18). Safe. -/
  | illegalQuantum (q : Nat)
deriving DecidableEq, Repr

/-- Nothing is offered and nobody is ready: the inputs before the first turn samples them. -/
def noInputs : Inputs := ⟨none, false, false, false⟩

/-- The block right after reset (R211, R212); `SNAP`, `HKIND`, `HLV`, `HBUF` are unspecified by R213 and hold the
values that log entries 6 to 9 name (DESIGN CHOICE). -/
def Block.reset : Block where
  levels := Vector.replicate 8 0
  steps := reflect (Vector.replicate 8 0)
  lock := .free
  sph := .acq
  idx := 0
  snap := Vector.replicate 9 ⟨0, 0⟩
  hph := .idle
  hkind := .bad
  hlv := Vector.replicate 8 0
  hbuf := Vector.replicate 9 ⟨0, 0⟩

/-- The machine right after reset with `Q = q`, which is fixed before reset is released (R155, R211). -/
def State.resetWith (q : Quantum) : State where
  toBlock := Block.reset
  lastWord := none
  tbPend := none
  delayDone := false
  quantum := q
  inputs := noInputs
  tbPort := none
  hostTrace := []
  tbTrace := []
  sched := []
  turnNo := 0

/-- The machine right after reset in the reference configuration `Q = 10` (R7, R211; log entry 10). -/
def State.reset : State := State.resetWith Config.refQuantum

/-- Reset with a chosen `Q`: refused outside 1 to 257 (R7, U18). -/
def State.configure (q : Nat) : Host.Outcome State Fault Refusal :=
  match Config.quantumOf q with
  | some legal => .next (State.resetWith legal)
  | none => .refused (.illegalQuantum q)

end Sys2Proof.Machine
end

