-- ==== Sys2Proof/Machine/Ops.lean ====
section
/-! DEFINITION. The named updates of the state, shared by every micro-step: traces (R9), port handshakes (R140), the command latch
(R141), the whole-array writes of the storage (R42: every access moves a whole array) and the phase registers. -/

namespace Sys2Proof.Machine

/-- An event on the host port (R9: the host trace). -/
def State.emitHost (e : HostEvent) (s : State) : State := { s with hostTrace := s.hostTrace ++ [e] }

/-- An event on the boundary port (R9: the boundary trace). -/
def State.emitTb (e : TbEvent) (s : State) : State := { s with tbTrace := s.tbTrace ++ [e] }

/-- The host's offer is consumed by the micro-step that takes it (notation `on P.E`, `00_scope.md` section 6). -/
def State.consumeOffer (s : State) : State := { s with inputs := { s.inputs with offer := none } }

/-- `HPH <- p` (R19). -/
def State.setHph (p : HPhase) (s : State) : State := { s with hph := p }

/-- `SPH <- p` (R17). -/
def State.setSph (p : SPhase) (s : State) : State := { s with sph := p }

/-- `IDX <- k` (R18). -/
def State.setIdx (k : StepIndex) (s : State) : State := { s with idx := k }

/-- `LOCK <- l` (R16). -/
def State.setLock (l : Lock) (s : State) : State := { s with lock := l }

/-- `LEVELS <- l`, all eight at once (R11, R42). -/
def State.setLevels (l : Levels) (s : State) : State := { s with levels := l }

/-- `STEPS <- q`, all nine at once (R12, R42). -/
def State.setSteps (q : Sequence) (s : State) : State := { s with steps := q }

/-- `SNAP <- q`, all nine at once (R20, R42). -/
def State.setSnap (q : Sequence) (s : State) : State := { s with snap := q }

/-- `HBUF <- q`, all nine at once (R22, R42). -/
def State.setHbuf (q : Sequence) (s : State) : State := { s with hbuf := q }

/-- `HKIND <- k` (R21). -/
def State.setHkind (k : HKind) (s : State) : State := { s with hkind := k }

/-- `HLV <- l`, all eight at once (R21). -/
def State.setHlv (l : Levels) (s : State) : State := { s with hlv := l }

/-- The boundary takes a word: the lines show it until the next one (R171, R176). -/
def State.setLastWord (w : TbsWord) (s : State) : State := { s with lastWord := some w }

/-- `TBPEND <- n` (R176). -/
def State.setTbPend (n : Option TbdWord) (s : State) : State := { s with tbPend := n }

/-- A `DELAY_DONE` stands at the boundary port, or none (R173). -/
def State.setDelayDone (d : Bool) (s : State) : State := { s with delayDone := d }

/-- A request stands on the boundary port, or none (log entry 17). -/
def State.setTbPort (r : Option TbRequest) (s : State) : State := { s with tbPort := r }

/-- A turn begins: its inputs are sampled and it is taken off the schedule (R9, R188; log entries 1 and 4). -/
def State.beginTurn (inputs : Inputs) (rest : List Turn) (s : State) : State :=
  { s with inputs := inputs, sched := rest, turnNo := s.turnNo + 1 }

/-- H.ACCEPT of `UPDATE_LEVELS`: `HKIND <- UPD ; HLV <- levels ; HPH <- H_ACQ` (R141). -/
def State.latchUpdate (l : Levels) (s : State) : State := ((s.setHkind .upd).setHlv l).setHph .acq

/-- H.ACCEPT of `READ_SNAPSHOT`: `HKIND <- RD ; HPH <- H_ACQ` (R141). -/
def State.latchRead (s : State) : State := (s.setHkind .rd).setHph .acq

/-- `raise IllegalCommand(w)`: `HKIND <- BAD ; HPH <- H_RSP` (R141). It is the block's one exception-like condition and no
trap: nothing is saved, control goes nowhere, the word is not kept (R186, R187, R190). -/
def State.raiseIllegalCommand (s : State) : State := (s.setHkind .bad).setHph .rsp

end Sys2Proof.Machine
end

