-- ==== Sys2Proof/Machine/Operands.lean ====
section
/-! DEFINITION. Operand assembly (`30_encoding.md` R66, R69, `42_host_port.md` R147): what each micro-step reads, and the words it puts on a
port. -/

namespace Sys2Proof.Machine

/-- `SNAP[IDX]`, the Step the streamer is at (R114 to R116). -/
def State.currentStep (s : State) : Step := s.snap[s.idx]

/-- The word of a `SEND`: the bitmask as stored, unmasked and unshifted (R66). -/
def sendOperand (s : State) : TbsWord := s.currentStep.mask

/-- `zext_16(dur) × Q`, over the integers (R69): it fits 16 bits since `Q ≤ 257`. -/
def delayCount (q : Quantum) (dur : Duration) : TbdWord := BitVec.ofNat 16 (dur.toNat * q.val)

/-- The count of a `DELAY` (R69, R116). -/
def delayOperand (s : State) : TbdWord := delayCount s.quantum s.currentStep.dur

/-- The response word H.RSP gives: `ACK`, `DATA` with format SQ of `HBUF`, or `ERR`, as `HKIND` says (R147). -/
def responseWord (s : State) : HrWord :=
  match s.hkind with
  | .upd => hrWord 0b01 0
  | .rd => hrWord 0b10 (packSequence s.hbuf)
  | .bad => hrWord 0b11 0

end Sys2Proof.Machine
end

