-- ==== Sys2Proof/Machine/Flags.lean ====
section
/-! DEFINITION. Flags. The block has no condition codes (`10_state.md` R23): its one flag is `LOCK` (R16), which only the four micro-steps
H.ACQ, H.REL, S.ACQ, S.REL write, and its two tests are computed when they are used and stored nowhere. -/

namespace Sys2Proof.Machine

/-- The test `LOCK = FREE` (R23, R47). -/
def State.lockFree (s : State) : Bool := s.lock == .free

/-- The test `SNAP[IDX].dur = 0` (R23, R114, R115). -/
def State.durZero (s : State) : Bool := s.currentStep.dur == 0

/-- An ACQ: enabled only when `LOCK = FREE`, it sets `LOCK` to its agent (R47). Which of two waiting agents goes first is
left open (R49, U13; log entry 14). -/
def State.acquire (who : Lock) (s : State) : Option State :=
  if s.lockFree then some (s.setLock who) else none

/-- A REL: `LOCK <- FREE` (R47). -/
def State.release (s : State) : State := s.setLock .free

end Sys2Proof.Machine
end

