-- ==== Sys2Proof/Machine/Boundary.lean ====
section
/-! DEFINITION. The transmission boundary (`43_boundary.md`): the two requests the block makes of it, and its one event, on the reference
boundary of R176. -/

namespace Sys2Proof.Machine

/-- `LINE`, what the eight lines show: bits 7 to 0 of the last word taken, a free value before the first (R176). -/
def State.line (s : State) : BitVec 8 :=
  match s.lastWord with
  | none => Config.lineAtReset
  | some w => w.extractLsb' 0 8

/-- `emit TB.SEND(word)` (R171) and the reference boundary's side of it: `LINE <- word[7:0]` (R176). Fire-and-forget:
nothing comes back. -/
def takeSend (word : TbsWord) (s : State) : State := (s.emitTb (.send word)).setLastWord word

/-- `emit TB.DELAY(count)`, always accepted (R172), and the reference boundary's side: `TBPEND <- count` (R176). -/
def takeDelay (count : TbdWord) (s : State) : State := (s.emitTb (.delay count)).setTbPend (some count)

/-- The boundary's own step: when `TBPEND ≠ none`, give `DELAY_DONE` and `TBPEND <- none` (R173, R176). -/
def giveDelayDone (s : State) : Option State :=
  match s.tbPend with
  | some _ => some ((s.setTbPend none).setDelayDone true)
  | none => none

end Sys2Proof.Machine
end

