-- ==== Sys2Proof/Machine/BoundaryRequests.lean ====
section
/-! DEFINITION. The meanings of the boundary requests (`43_boundary.md` R171, R172). -/

namespace Sys2Proof.Machine

/-- `SEND word` (R171): taken when the boundary accepts a word; otherwise it waits on the port. -/
def execSend (word : TbsWord) (s : State) : Host.Outcome State Fault Refusal :=
  .next (if s.inputs.tbReady then takeSend word s else s)

/-- `DELAY count` (R172): always accepted. -/
def execDelay (count : TbdWord) (s : State) : Host.Outcome State Fault Refusal :=
  .next (takeDelay count s)

end Sys2Proof.Machine
end

