-- ==== Sys2Proof/Machine/HostEngine.lean ====
section
/-! DEFINITION. The host engine (`42_host_port.md` R140 to R147): its seven micro-steps, each `none` where its guard does not hold
(the engine then waits, R192), and the phase machine that selects among them (R19). -/

namespace Sys2Proof.Machine

/-- The handshake of H.ACCEPT (R140, R141): in `H_IDLE` the word `w` is taken, the event `CMD(w)` is recorded, and `latch` latches
the command. -/
def acceptCommand (w : HcWord) (latch : State → State) (s : State) : Option State :=
  match s.hph with
  | .idle => some (latch (s.consumeOffer.emitHost (.cmd w)))
  | .acq | .write | .reflect | .copy | .rel | .rsp => none

/-- What H.ACCEPT latches for the word `w`, by `op` and `arg` (R141). -/
def latchWord (w : HcWord) (s : State) : State :=
  if hcOp w = 0b01 then s.latchUpdate (unpackLevels (hcArg w))
  else if hcOp w = 0b10 ∧ hcArg w = 0 then s.latchRead
  else s.raiseIllegalCommand

/-- `H.ACCEPT` (R141): enabled when `HPH = H_IDLE` and the host offers a word. -/
def hAccept (s : State) : Option State :=
  match s.inputs.offer with
  | some w => acceptCommand w (latchWord w) s
  | none => none

/-- `H.ACQ` (R142): `LOCK <- HOST`, then `H_WRITE` for an update and `H_COPY` otherwise. -/
def hAcq (s : State) : Option State :=
  match s.hkind with
  | .upd => (s.acquire .host).map (·.setHph .write)
  | .rd | .bad => (s.acquire .host).map (·.setHph .copy)

/-- `H.WRITE` (R143): `LEVELS <- HLV`, the only write of the levels. -/
def hWrite (s : State) : Option State := some ((s.setLevels s.hlv).setHph .reflect)

/-- `H.REFLECT` (R144): `STEPS <- REFLECT(LEVELS)`, the only write of the sequence and the only read of the levels. -/
def hReflect (s : State) : Option State := some ((s.setSteps (reflect s.levels)).setHph .rel)

/-- `H.COPY` (R145): `HBUF <- STEPS`, a value copy. -/
def hCopy (s : State) : Option State := some ((s.setHbuf s.steps).setHph .rel)

/-- `H.REL` (R146): `LOCK <- FREE` before the engine waits for the host. -/
def hRel (s : State) : Option State := some (s.release.setHph .rsp)

/-- `H.RSP` (R147): enabled when the host is ready to take the response. -/
def hRsp (s : State) : Option State :=
  if s.inputs.hostReady then some ((s.emitHost (.rsp (responseWord s))).setHph .idle) else none

/-- The micro-step that continues the command in hand, selected by `HPH` (R19, R77); none in `H_IDLE`. -/
def hostContinue (s : State) : Option State :=
  match s.hph with
  | .idle => none
  | .acq => hAcq s
  | .write => hWrite s
  | .reflect => hReflect s
  | .copy => hCopy s
  | .rel => hRel s
  | .rsp => hRsp s

/-- The host engine's micro-step (R19): H.ACCEPT in `H_IDLE`, otherwise the one that continues the command in hand. -/
def hostMicro (s : State) : Option State :=
  match s.hph with
  | .idle => hAccept s
  | .acq | .write | .reflect | .copy | .rel | .rsp => hostContinue s

/-- At most `n` further micro-steps of the command in hand, as far as they are enabled (log entry 2). -/
def finishCommand : Nat → State → State
  | 0, s => s
  | n + 1, s =>
    match hostContinue s with
    | some s' => finishCommand n s'
    | none => s

/-- A whole host command (R148 to R150): H.ACCEPT, then the rest of its micro-steps, of which the longest command has five. In
another phase than `H_IDLE` the command is not accepted and waits (R140). -/
def runCommand (w : HcWord) (latch : State → State) (s : State) : State :=
  match acceptCommand w latch s with
  | some s' => finishCommand 5 s'
  | none => s

/-- H.RSP of the response that is `offered`; where it is not the one offered, nothing is taken (log entry 18). -/
def giveResponse (offered : Bool) (s : State) : State :=
  match s.hph with
  | .rsp => if offered then (hRsp s).getD s else s
  | .idle | .acq | .write | .reflect | .copy | .rel => s

end Sys2Proof.Machine
end

