-- ==== Sys2Proof/Machine/HostCommands.lean ====
section
/-! DEFINITION. The meanings of the host command words as wholes (`42_host_port.md` R148 to R150), for a turn in which the host engine runs the
command as far as its micro-steps are enabled (log entry 2). -/

namespace Sys2Proof.Machine

/-- `UPDATE_LEVELS l0, ..., l7` (R148): H.ACCEPT, H.ACQ, H.WRITE, H.REFLECT, H.REL, H.RSP. -/
def execUpdateLevels (levels : Levels) (s : State) : Host.Outcome State Fault Refusal :=
  .next (runCommand (encodeHostCommand (.updateLevels levels)) (State.latchUpdate levels) s)

/-- `READ_SNAPSHOT` (R149): H.ACCEPT, H.ACQ, H.COPY, H.REL, H.RSP. -/
def execReadSnapshot (s : State) : Host.Outcome State Fault Refusal :=
  .next (runCommand (encodeHostCommand .readSnapshot) State.latchRead s)

/-- An illegal word with `op = 0b00` (R150): H.ACCEPT raising `IllegalCommand`, then H.RSP with `ERR`. -/
def execIllegalOp00 (arg : LvWord) (s : State) : Host.Outcome State Fault Refusal :=
  .next (runCommand (encodeHostCommand (.illegalOp00 arg)) State.raiseIllegalCommand s)

/-- An illegal word with `op = 0b11` (R150). -/
def execIllegalOp11 (arg : LvWord) (s : State) : Host.Outcome State Fault Refusal :=
  .next (runCommand (encodeHostCommand (.illegalOp11 arg)) State.raiseIllegalCommand s)

/-- An illegal word with `op = 0b10` and `arg ≠ 0` (R150). -/
def execIllegalRdArg (arg : LvWord) (s : State) : Host.Outcome State Fault Refusal :=
  .next (runCommand (encodeHostCommand (.illegalRdArg arg)) State.raiseIllegalCommand s)

end Sys2Proof.Machine
end

