-- ==== Sys2Proof/Machine/Responses.lean ====
section
/-! DEFINITION. The meanings of the host responses (`42_host_port.md` R147): H.RSP gives the one response that `HKIND` and `HBUF` select, when
the host is ready to take it. -/

namespace Sys2Proof.Machine

/-- `ACK` (R147): the update's critical section is over. -/
def execAck (s : State) : Host.Outcome State Fault Refusal :=
  .next (giveResponse (s.hkind == .upd) s)

/-- `DATA` (R147): the Steps that H.COPY put in `HBUF`. -/
def execData (steps : Sequence) (s : State) : Host.Outcome State Fault Refusal :=
  .next (giveResponse (s.hkind == .rd && s.hbuf == steps) s)

/-- `ERR` (R147): the command word was illegal. -/
def execErr (s : State) : Host.Outcome State Fault Refusal :=
  .next (giveResponse (s.hkind == .bad) s)

end Sys2Proof.Machine
end

