-- ==== Sys2Proof/Machine/Streamer.lean ====
section
/-! DEFINITION. The streamer (`41_streamer.md` R110 to R119): its seven micro-steps, each `none` where its guard does not hold (the
streamer then waits, R192), ADVANCE, and the phase machine that selects among them (R17). -/

namespace Sys2Proof.Machine

/-- `ADVANCE` (R118): strictly in index order, from 8 back to 0 with a new snapshot. -/
def State.advance (s : State) : State :=
  if s.idx = 8 then (s.setIdx 0).setSph .acq else (s.setIdx (s.idx + 1)).setSph .step

/-- `S.ACQ` (R111): `LOCK <- STRM`. -/
def sAcq (s : State) : Option State := (s.acquire .strm).map (·.setSph .copy)

/-- `S.COPY` (R112): `SNAP <- STEPS`, a value copy of all nine Steps. -/
def sCopy (s : State) : Option State := some ((s.setSnap s.steps).setSph .rel)

/-- `S.REL` (R113): `LOCK <- FREE` before the first boundary request of the cycle. -/
def sRel (s : State) : Option State := some (s.release.setSph .step)

/-- `S.SKIP` (R114): nothing is emitted. -/
def sSkip (s : State) : Option State := if s.durZero then some s.advance else none

/-- `S.SEND` (R115): enabled when the duration is not 0 and the boundary accepts a word. -/
def sSend (s : State) : Option State :=
  if s.durZero then none
  else if s.inputs.tbReady then some ((takeSend (sendOperand s) s).setSph .dly)
  else none

/-- `S.DLY` (R116): the delay is asked for; always accepted. -/
def sDly (s : State) : Option State := some ((takeDelay (delayOperand s) s).setSph .wait)

/-- `S.RESUME` (R117): consumes the `DELAY_DONE` the boundary has given. -/
def sResume (s : State) : Option State :=
  if s.delayDone then some ((s.setDelayDone false).emitTb .delayDone).advance else none

/-- The streamer's micro-step, selected by `SPH` and, in `S_STEP`, by the duration (R17, R71, R110). -/
def strmMicro (s : State) : Option State :=
  match s.sph with
  | .acq => sAcq s
  | .copy => sCopy s
  | .rel => sRel s
  | .step => if s.durZero then sSkip s else sSend s
  | .dly => sDly s
  | .wait => sResume s

/-- Inside a whole `EMIT`: the boundary ends the delay now, if this turn's inputs say so (log entry 2). -/
def delayDoneNow (s : State) : State :=
  if s.inputs.tbDone then (giveDelayDone s).getD s else s

/-- The rest of an `EMIT` from its S.DLY on: S.DLY if it is still to come, the boundary's completion, S.RESUME (R119). -/
def finishEmit (s : State) : State :=
  match s.sph with
  | .dly =>
    let waiting := delayDoneNow ((sDly s).getD s)
    (sResume waiting).getD waiting
  | .wait =>
    let waiting := delayDoneNow s
    (sResume waiting).getD waiting
  | .acq | .copy | .rel | .step => s

/-- A whole `EMIT` (R119): S.SEND, S.DLY, S.RESUME with no other streamer step between. -/
def runEmit (s : State) : State :=
  match sSend s with
  | some s' => finishEmit s'
  | none => s

/-- The whole snapshot section (R110 step 1, R46): S.ACQ, S.COPY, S.REL, from wherever it stands. -/
def runSnapshot : Nat → State → State
  | 0, s => s
  | n + 1, s =>
    match s.sph with
    | .acq | .copy | .rel =>
      match strmMicro s with
      | some s' => runSnapshot n s'
      | none => s
    | .step | .dly | .wait => s

/-- The Step the streamer looks at is `step`: `SPH = S_STEP` and `SNAP[IDX] = step` (R114, R115). -/
def State.atStep (step : Step) (s : State) : Bool := s.sph == .step && s.currentStep == step

end Sys2Proof.Machine
end

