-- ==== Sys2Proof/Machine/StepWords.lean ====
section
/-! DEFINITION. The meanings of the step words, the streamer's instructions (`41_streamer.md` R114, R119). Where the word is not the one at
`SNAP[IDX]` in phase `S_STEP` it is not executed and nothing changes (log entry 18). -/

namespace Sys2Proof.Machine

/-- `SKIP` (R114): no transmission, no delay; the mask is not looked at further. -/
def execSkip (mask : Mask) (s : State) : Host.Outcome State Fault Refusal :=
  .next (if s.atStep ⟨mask, 0⟩ then (sSkip s).getD s else s)

/-- `EMIT` (R119): S.SEND, S.DLY, S.RESUME. -/
def execEmit (mask : Mask) (dur : Duration) (s : State) : Host.Outcome State Fault Refusal :=
  .next (if s.atStep ⟨mask, dur⟩ then runEmit s else s)

end Sys2Proof.Machine
end

