-- ==== Sys2Proof/Machine/Dispatch.lean ====
section
/-! DEFINITION. One arm per instruction: its meaning. -/

namespace Sys2Proof.Machine

def exec (i : Instr) (s : State) : Host.Outcome State Fault Refusal :=
  match i with
  | .updateLevels levels => Sys2Proof.Machine.execUpdateLevels levels s
  | .readSnapshot => Sys2Proof.Machine.execReadSnapshot s
  | .illegalOp00 arg => Sys2Proof.Machine.execIllegalOp00 arg s
  | .illegalOp11 arg => Sys2Proof.Machine.execIllegalOp11 arg s
  | .illegalRdArg arg => Sys2Proof.Machine.execIllegalRdArg arg s
  | .ack => Sys2Proof.Machine.execAck s
  | .data steps => Sys2Proof.Machine.execData steps s
  | .err => Sys2Proof.Machine.execErr s
  | .skip mask => Sys2Proof.Machine.execSkip mask s
  | .emit mask dur => Sys2Proof.Machine.execEmit mask dur s
  | .send word => Sys2Proof.Machine.execSend word s
  | .delay count => Sys2Proof.Machine.execDelay count s

end Sys2Proof.Machine
end

