-- ==== Sys2Proof/Machine/Fetch.lean ====
section
/-! DEFINITION. What a turn runs: the word its agent takes from a port or from `SNAP[IDX]` (fetch), the micro-steps that no word selects
(R77), and where a given word is placed so that the next turn takes it (log entries 16, 17, 28). -/

namespace Sys2Proof.Machine

/-- The next turn: the head of the schedule, or a free value when there is none (R9; log entry 1). -/
def State.turn (s : State) : Turn :=
  match s.sched with
  | t :: _ => t
  | [] => Config.freeTurn s.turnNo

/-- The state in which the next turn runs: its inputs sampled, the turn taken off the schedule. -/
def State.atTurn (s : State) : State := s.beginTurn s.turn.inputs s.sched.tail

/-- The word the host engine takes or gives at its turn: in `H_IDLE`, for a whole command, the word offered (R68); in `H_RSP` the
response the host is ready to take (R70). -/
def fetchHost (grain : Grain) (s : State) : Option Instr :=
  match s.hph with
  | .idle =>
    match grain with
    | .whole => s.inputs.offer.map decodeHostCommand
    | .micro => none
  | .rsp => if s.inputs.hostReady then (decodeResponse (responseWord s)).toOption else none
  | .acq | .write | .reflect | .copy | .rel => none

/-- The word the streamer executes at its turn: `SNAP[IDX]` in `S_STEP` (R71), or, micro-step by micro-step, the request it puts on
the boundary port: S.SEND's word (R66) once the boundary accepts it, S.DLY's count (R67). -/
def fetchStreamer (grain : Grain) (s : State) : Option Instr :=
  match s.sph with
  | .step =>
    match grain with
    | .whole => some (decodeStepWord (stepWord s.currentStep))
    | .micro =>
      if s.durZero then some (decodeStepWord (stepWord s.currentStep))
      else if s.inputs.tbReady then some (decodeSend (sendOperand s))
      else none
  | .dly =>
    match grain with
    | .whole => none
    | .micro => some (decodeDelay (delayOperand s))
  | .acq | .copy | .rel | .wait => none

/-- The request the boundary takes at its own turn: one that stands on its port by itself (log entry 17), a `SEND` once the boundary
accepts it (R171). The streamer's own requests are taken in its micro-steps S.SEND and S.DLY. -/
def fetchBoundary (s : State) : Option Instr :=
  match s.tbPort with
  | some (.send word) => if s.inputs.tbReady then some (decodeSend word) else none
  | some (.delay count) => some (decodeDelay count)
  | none => none

/-- The instruction the turn `t` runs, where it runs one. -/
def fetch (t : Turn) (s : State) : Option Instr :=
  match t.agent with
  | .host => fetchHost t.grain s
  | .strm => fetchStreamer t.grain s
  | .boundary => fetchBoundary s

/-- The streamer's phase after a word it ran: `S_DLY` after S.SEND's request (R115), `S_WAIT` after S.DLY's (R116). Every other
instruction sets its agent's phase itself. -/
def settleStreamer (i : Instr) (s : State) : State :=
  match i with
  | .send _ => s.setSph .dly
  | .delay _ => s.setSph .wait
  | .updateLevels _ | .readSnapshot | .illegalOp00 _ | .illegalOp11 _ | .illegalRdArg _ => s
  | .ack | .data _ | .err | .skip _ | .emit _ _ => s

/-- What the turn of `agent` does besides running the instruction `i`: the streamer's phase moves on after a request it made, and a
request the boundary took from its port stands there no more. -/
def settle (agent : Agent) (i : Instr) (s : State) : State :=
  match agent with
  | .host => s
  | .strm => settleStreamer i s
  | .boundary => s.setTbPort none

/-- The host engine's turn where no word is taken: one micro-step, or the rest of the command in hand; with none enabled it waits
(R192; log entry 3). -/
def silentHost (grain : Grain) (s : State) : State :=
  match grain with
  | .micro => (hostMicro s).getD s
  | .whole => finishCommand 5 s

/-- The streamer's turn where no word is taken: one micro-step, or the rest of the snapshot section or of the `EMIT` begun. -/
def silentStreamer (grain : Grain) (s : State) : State :=
  match grain with
  | .micro => (strmMicro s).getD s
  | .whole =>
    match s.sph with
    | .acq | .copy | .rel => runSnapshot 3 s
    | .step | .dly | .wait => finishEmit s

/-- A turn where no word is taken. The boundary's turn is its one step (R176). -/
def silentTurn (t : Turn) (s : State) : State :=
  match t.agent with
  | .host => silentHost t.grain s
  | .strm => silentStreamer t.grain s
  | .boundary => (giveDelayDone s).getD s

/-! ## Placing a word -/

/-- The outside offers nothing but is willing: the host takes a response, the boundary accepts words and ends delays. -/
def willing : Inputs := ⟨none, true, true, true⟩

/-- `t` becomes the next turn. -/
def State.schedule (t : Turn) (s : State) : State := { s with sched := t :: s.sched }

/-- A host command word is offered to an idle engine, for one whole command. -/
def placeCommand (w : HcWord) (s : State) : State :=
  (s.setHph .idle).schedule ⟨.host, .whole, { willing with offer := some w }⟩

/-- The engine is in `H_RSP` with the latches from which H.RSP makes the response `w`; a word that is no response is not placed. -/
def placeResponse (w : HrWord) (s : State) : State :=
  let ready (s : State) : State := (s.setHph .rsp).schedule ⟨.host, .micro, willing⟩
  match decodeResponse w with
  | .ok .ack => ready (s.setHkind .upd)
  | .ok (.data steps) => ready ((s.setHkind .rd).setHbuf steps)
  | .ok .err => ready (s.setHkind .bad)
  | .ok (.updateLevels _) | .ok .readSnapshot | .ok (.illegalOp00 _) | .ok (.illegalOp11 _) => s
  | .ok (.illegalRdArg _) | .ok (.skip _) | .ok (.emit _ _) | .ok (.send _) | .ok (.delay _) => s
  | .error _ => s

/-- A step word stands at `SNAP[IDX]` in phase `S_STEP`, for one whole step word. -/
def placeStep (w : StWord) (s : State) : State :=
  ((s.setSnap (s.snap.set s.idx.val (stepOfWord w))).setSph .step).schedule ⟨.strm, .whole, willing⟩

/-- A request stands on the boundary port, for the boundary's turn (log entry 17). -/
def placeRequest (r : TbRequest) (s : State) : State :=
  (s.setTbPort (some r)).schedule ⟨.boundary, .micro, willing⟩

/-- The word `w` of format `f` placed where the next turn takes it. -/
def placeWord (f : Format) (w : Nat) (s : State) : State :=
  match f with
  | .hc => placeCommand (BitVec.ofNat 66 w) s
  | .hr => placeResponse (BitVec.ofNat 362 w) s
  | .st => placeStep (BitVec.ofNat 40 w) s
  | .tbs => placeRequest (.send (BitVec.ofNat 32 w)) s
  | .tbd => placeRequest (.delay (BitVec.ofNat 16 w)) s

end Sys2Proof.Machine
end

