-- ==== Sys2Proof/Machine/Step.lean ====
section
/-! DEFINITION. One step of the machine: the next turn, in which one agent runs the instruction its word stands for, or a micro-step that no
word selects (`00_scope.md` R9). -/

namespace Sys2Proof.Machine

/-- The turn `t` in the state `s`, whose inputs are already sampled. -/
def runTurn (t : Turn) (s : State) : Host.Outcome State Fault Refusal :=
  match fetch t s with
  | some i =>
    match exec i s with
    | .next s' => .next (settle t.agent i s')
    | .fault r => .fault r
    | .refused r => .refused r
  | none => .next (silentTurn t s)

/-- One step (R9): the next turn of the schedule, or of the free schedule. -/
def step (s : State) : Host.Outcome State Fault Refusal := runTurn s.turn s.atTurn

/-- `s` with the instruction whose bits are `w` standing where the next step takes its word (log entries 16, 17, 28). -/
def State.withFetchWord (s : State) (nbits w : Nat) : State :=
  match formatOfBits nbits with
  | some f => placeWord f w s
  | none => s

end Sys2Proof.Machine
end

