-- ==== Sys2Proof/Safety.lean ====
section
/-! DEFINITION. What the specification says of whole sequences, states and runs, in the terms the claims use: durations and ON-times of a
sequence, the trace of a cycle, the invariants of the registers, and the premises about the outside that R174 and R49 name. -/

namespace Sys2Proof.Machine

/-! ## Sequences -/

/-- The sum of the nine durations (R15, R96). -/
def durationSum (q : Sequence) : Nat := (q.toList.map fun st => st.dur.toNat).sum

/-- The effective ON-duration of channel `c`: the durations of the steps whose mask has bit `c` set (R97). -/
def onDuration (q : Sequence) (c : Channel) : Nat :=
  ((q.toList.filter fun st => st.mask.getLsbD c.val).map fun st => st.dur.toNat).sum

/-- The number of effective steps, those whose duration is not 0 (R99). -/
def effectiveCount (q : Sequence) : Nat := q.toList.countP fun st => st.dur != 0

/-- The boundaries between the intervals of a cycle: 0, the eight levels in ascending order, 255 (R93, R94). -/
def transitionTimes (l : Levels) : List Nat := 0 :: (sortChannels l).map (fun c => l[c].toNat) ++ [255]

/-! ## The boundary trace of a cycle -/

/-- The boundary events of one Step: none for a `SKIP`, three for an `EMIT` (R114, R119). -/
def stepEvents (q : Quantum) (st : Step) : List TbEvent :=
  if st.dur = 0 then [] else [.send st.mask, .delay (delayCount q st.dur), .delayDone]

/-- The boundary trace of a whole cycle whose snapshot is `seq` (R120). -/
def cycleTrace (q : Quantum) (seq : Sequence) : List TbEvent := seq.toList.flatMap (stepEvents q)

/-- The boundary trace of the current cycle so far: the Steps before `IDX`, and the part of an `EMIT` that is done (R119, R120). -/
def cycleProgress (s : State) : List TbEvent :=
  let finished := (s.snap.toList.take s.idx.val).flatMap (stepEvents s.quantum)
  match s.sph with
  | .acq | .copy | .rel => []
  | .step => finished
  | .dly => finished ++ [.send s.currentStep.mask]
  | .wait => finished ++ [.send s.currentStep.mask, .delay (delayCount s.quantum s.currentStep.dur)]

/-- The delay count of an event, 0 for an event that asks for no delay. -/
def TbEvent.count : TbEvent → Nat
  | .delay n => n.toNat
  | .send _ | .delayDone => 0

/-- The event is a `SEND`. -/
def TbEvent.isSend : TbEvent → Bool
  | .send _ => true
  | .delay _ | .delayDone => false

/-- The delay requested while the last word sent had bit `c` set (R121); `on` is that bit before the list begins. -/
def onDelay (c : Channel) : Bool → List TbEvent → Nat
  | _, [] => 0
  | _, .send w :: rest => onDelay c (w.getLsbD c.val) rest
  | on, .delay n :: rest => (if on then n.toNat else 0) + onDelay c on rest
  | on, .delayDone :: rest => onDelay c on rest

/-! ## Invariants between the registers -/

/-- The host engine is inside its critical section (R28, R46). -/
def HPhase.holdsLock : HPhase → Bool
  | .write | .reflect | .copy | .rel => true
  | .idle | .acq | .rsp => false

/-- The streamer is inside its critical section (R28, R46). -/
def SPhase.holdsLock : SPhase → Bool
  | .copy | .rel => true
  | .acq | .step | .dly | .wait => false

/-- The streamer is between two cycles (R29). -/
def SPhase.betweenCycles : SPhase → Bool
  | .acq | .copy | .rel => true
  | .step | .dly | .wait => false

/-- The shared-record invariant (R13). -/
def SharedRecord (s : State) : Prop := s.hph ≠ .reflect → s.steps = reflect s.levels

/-- The lock ownership invariant (R28). -/
def LockOwned (s : State) : Prop :=
  (s.lock = .host ↔ s.hph.holdsLock = true) ∧ (s.lock = .strm ↔ s.sph.holdsLock = true)

/-- The index invariants (R29); `IDX ≤ 8` holds by its type (log entry 13). -/
def IndexPlaced (s : State) : Prop :=
  (s.sph.betweenCycles = true → s.idx = 0) ∧ (s.sph = .dly ∨ s.sph = .wait → s.durZero = false)

/-- `HKIND` fits the phase: `H_ACQ` and the critical section have a legal command in hand, each its own (R141, R142). -/
def KindPlaced (s : State) : Prop :=
  (s.hph = .write ∨ s.hph = .reflect → s.hkind = .upd) ∧ (s.hph = .copy → s.hkind = .rd) ∧
  (s.hph = .acq ∨ s.hph = .rel → s.hkind ≠ .bad)

/-- Exactly in `S_WAIT` one delay is outstanding: it runs, with the count S.DLY asked for, or its `DELAY_DONE` stands there (R26 (b),
R172, R173). -/
def DelayPlaced (s : State) : Prop :=
  (s.sph = .wait → (s.tbPend = some (delayOperand s) ∧ s.delayDone = false) ∨ (s.tbPend = none ∧ s.delayDone = true)) ∧
  (s.sph ≠ .wait → s.tbPend = none ∧ s.delayDone = false)

/-- The streamer's copy is `REFLECT` of one value of the levels, from S.COPY on (R15, R20, R51). -/
def SnapReflected (s : State) : Prop := s.sph ≠ .acq → s.sph ≠ .copy → ∃ l, s.snap = reflect l

/-- What a response stands for: with an update in hand that has been written, `LEVELS = HLV` (R143, R147); with a read in hand that
has been copied, `HBUF = STEPS` (R145). -/
def ResponseCurrent (s : State) : Prop :=
  (s.hkind = .upd → s.hph = .reflect ∨ s.hph = .rel ∨ s.hph = .rsp → s.levels = s.hlv) ∧
  (s.hkind = .rd → s.hph = .rel ∨ s.hph = .rsp → s.hbuf = s.steps)

/-- The machine's invariant. -/
structure Inv (s : State) : Prop where
  shared : SharedRecord s
  lock : LockOwned s
  index : IndexPlaced s
  kind : KindPlaced s
  delay : DelayPlaced s
  snap : SnapReflected s
  response : ResponseCurrent s
  /-- Only the streamer puts requests on the boundary port (R127). -/
  port : s.tbPort = none

/-! ## Runs, and the premises about the outside -/

/-- `s` with the turns `ts` to come. -/
def State.withTurns (ts : List Turn) (s : State) : State := { s with sched := ts }

/-- The boundary's completion inside a whole `EMIT`, as a turn of the boundary: there is one where the inputs say so (log entry 2). -/
def completionTurn (inputs : Inputs) : List Turn := if inputs.tbDone then [⟨.boundary, .micro, inputs⟩] else []

/-- The one-micro-step turns that a whole turn of the streamer stands for, by its phase: S.ACQ, S.COPY, S.REL as far as they are still to
come (R111 to R113), S.SKIP (R114), or S.SEND, S.DLY, the boundary's completion, S.RESUME as far as they are still to come (R119). -/
def streamerMicroTurns (s : State) (inputs : Inputs) : List Turn :=
  let own : Turn := ⟨.strm, .micro, inputs⟩
  match s.sph with
  | .acq => [own, own, own]
  | .copy => [own, own]
  | .rel => [own]
  | .step => if s.durZero then [own] else [own, own] ++ completionTurn inputs ++ [own]
  | .dly => [own] ++ completionTurn inputs ++ [own]
  | .wait => completionTurn inputs ++ [own]

/-- An infinite run (R216: the block has no end). -/
def IsRun (r : Nat → State) : Prop := ∀ n, step (r n) = .next (r (n + 1))

/-- The run takes micro-steps only. -/
def IsMicroRun (r : Nat → State) : Prop := IsRun r ∧ ∀ n, (r n).turn.grain = .micro

/-- Premise B1, acceptance (R174): a `SEND` the streamer offers is accepted at some later turn. -/
def BoundaryAccepts (r : Nat → State) : Prop :=
  ∀ n, (r n).sph = .step → (r n).durZero = false →
    ∃ m ≥ n, (r m).sph = .step ∧ (r m).turn.agent = .strm ∧ (r m).turn.inputs.tbReady = true

/-- Premise B2, completion (R174): a delay that runs ends. -/
def BoundaryCompletes (r : Nat → State) : Prop := ∀ n, (r n).tbPend ≠ none → ∃ m ≥ n, (r m).tbPend = none

/-- Premise, bounded waiting (R49, U13): an agent that waits for the lock when the other releases it is granted it before the other
takes it again. A premise on micro-step runs; log entry 14. -/
def BoundedWaiting (r : Nat → State) : Prop :=
  (∀ n, (r n).lock = .host → (r (n + 1)).lock = .free → (r (n + 1)).sph = .acq →
    ∀ m > n + 1, (r m).lock = .host → ∃ k, n < k ∧ k < m ∧ (r k).lock = .strm) ∧
  (∀ n, (r n).lock = .strm → (r (n + 1)).lock = .free → (r (n + 1)).hph = .acq →
    ∀ m > n + 1, (r m).lock = .strm → ∃ k, n < k ∧ k < m ∧ (r k).lock = .host)

end Sys2Proof.Machine
end

