-- ==== Sys2Proof/Certificates/Slice0/Obligations.lean ====
section
/-! DEFINITION. The statements about the model, from the numbered rules of the specification. A statement about one micro-step is made of
`step` at a turn of that micro-step's agent; `s.atTurn` is `s` with the turn's inputs sampled and the turn taken off the schedule, so
that an equation `step s = .next { s.atTurn with … }` names every field the micro-step writes and says that no other changes. -/

open Sys2Proof Sys2Proof.Machine

/-! ## Reset and invariants -/

/-- R211, R212: the reset values the specification gives, for every `Q`. -/
def Obligations.ResetValues : Prop :=
  ∀ q : Quantum,
    (State.resetWith q).levels = Vector.replicate 8 0 ∧
    (State.resetWith q).steps = reflect (Vector.replicate 8 0) ∧
    (State.resetWith q).steps =
      #v[⟨0xFF, 0⟩, ⟨0xFE, 0⟩, ⟨0xFC, 0⟩, ⟨0xF8, 0⟩, ⟨0xF0, 0⟩, ⟨0xE0, 0⟩, ⟨0xC0, 0⟩, ⟨0x80, 0⟩, ⟨0x00, 255⟩] ∧
    (State.resetWith q).lock = .free ∧ (State.resetWith q).sph = .acq ∧ (State.resetWith q).idx = 0 ∧
    (State.resetWith q).hph = .idle

/-- The invariant holds at reset, for every `Q` and every schedule. -/
def Obligations.ResetMeetsInvariant : Prop :=
  ∀ (q : Quantum) (sched : List Turn), Inv ((State.resetWith q).withTurns sched)

/-- Every step, whoever takes it and however much of it, keeps the invariant. -/
def Obligations.StepKeepsInvariant : Prop := ∀ s t : State, Inv s → step s = .next t → Inv t

/-- R13, R28, R29: the shared-record, lock ownership and index invariants in every state a run from reset reaches, under every
schedule. -/
def Obligations.ReachableStatesCoherent : Prop :=
  ∀ (q : Quantum) (sched : List Turn) (n : Nat) (s : State),
    Sys2Proof.core.run n ((State.resetWith q).withTurns sched) = .next s →
    ((s.hph ≠ .reflect → s.steps = reflect s.levels) ∧ (s.hph = .reflect → s.lock = .host)) ∧
    ((s.lock = .host ↔ s.hph = .write ∨ s.hph = .reflect ∨ s.hph = .copy ∨ s.hph = .rel) ∧
      (s.lock = .strm ↔ s.sph = .copy ∨ s.sph = .rel) ∧
      ¬((s.hph = .write ∨ s.hph = .reflect ∨ s.hph = .copy ∨ s.hph = .rel) ∧ (s.sph = .copy ∨ s.sph = .rel))) ∧
    (s.idx.val ≤ 8 ∧ (s.sph = .acq ∨ s.sph = .copy ∨ s.sph = .rel → s.idx = 0) ∧
      (s.sph = .dly ∨ s.sph = .wait → s.snap[s.idx].dur ≠ 0))

/-! ## Encoding -/

/-- R74: encoding then decoding a well-formed operation gives the operation back, for every operation and every operand. -/
def Obligations.DecodeEncodeAgree : Prop :=
  ∀ i : Instr, i.wellFormed = true → decode i.format (encode i) = .ok i

/-- R74: decoding then encoding a word gives the word back, and what is decoded is well-formed. -/
def Obligations.EncodeDecodeAgree : Prop :=
  ∀ (f : Format) (bytes : List Byte) (i : Instr), decode f bytes = .ok i →
    i.format = f ∧ i.wellFormed = true ∧ encode i = bytes

/-- R68: the host command map by match and mask, with the fields of R64 and the level positions of R61. -/
def Obligations.HostCommandMap : Prop :=
  ∀ w : HcWord,
    (w &&& 0x30000000000000000 = 0x10000000000000000 →
      decodeHostCommand w = .updateLevels (Vector.ofFn fun c => w.extractLsb' (8 * c.val) 8)) ∧
    (w &&& 0x3FFFFFFFFFFFFFFFF = 0x20000000000000000 → decodeHostCommand w = .readSnapshot) ∧
    (w.extractLsb' 64 2 = 0b00 → decodeHostCommand w = .illegalOp00 (w.extractLsb' 0 64)) ∧
    (w.extractLsb' 64 2 = 0b11 → decodeHostCommand w = .illegalOp11 (w.extractLsb' 0 64)) ∧
    (w.extractLsb' 64 2 = 0b10 → w.extractLsb' 0 64 ≠ 0 →
      decodeHostCommand w = .illegalRdArg (w.extractLsb' 0 64))

/-- R71: the step word map by match and mask, with the fields of R62. -/
def Obligations.StepWordMap : Prop :=
  ∀ w : StWord,
    (w &&& 0xFF00000000 = 0x0000000000 → decodeStepWord w = .skip (w.extractLsb' 0 32)) ∧
    (w &&& 0xFF00000000 ≠ 0x0000000000 → decodeStepWord w = .emit (w.extractLsb' 0 32) (w.extractLsb' 32 8))

/-- The response words by kind (R65, R70) and the place of every Step in a `DATA` word (R62, R63); a word of kind `0b00` is refused. -/
def Obligations.ResponseWords : Prop :=
  (encodeResponse .ack).extractLsb' 360 2 = 0b01 ∧ (encodeResponse .ack).extractLsb' 0 360 = 0 ∧
  (encodeResponse .err).extractLsb' 360 2 = 0b11 ∧ (encodeResponse .err).extractLsb' 0 360 = 0 ∧
  (∀ q : Sequence, (encodeResponse (.data q)).extractLsb' 360 2 = 0b10 ∧
    ∀ k : StepIndex, (encodeResponse (.data q)).extractLsb' (40 * k.val) 32 = q[k].mask ∧
      (encodeResponse (.data q)).extractLsb' (40 * k.val + 32) 8 = q[k].dur) ∧
  ∀ w : HrWord, w.extractLsb' 360 2 = 0b00 → decodeResponse w = .error .reservedKind

/-- Sanity: words written out from the encodings decode to the operations they stand for (R61 to R71). -/
def Obligations.DecodedWords : Prop :=
  decodeTableWord 72 0x10000640000050200 = some (.updateLevels #v[0, 2, 5, 0, 0, 100, 0, 0]) ∧
  decodeTableWord 72 0x20000000000000000 = some .readSnapshot ∧
  decodeTableWord 72 0x20000000000000001 = some (.illegalRdArg 1) ∧
  decodeTableWord 40 0x0200000026 = some (.emit 0x26 2) ∧
  decodeTableWord 40 0x00000000FF = some (.skip 0xFF) ∧
  decodeTableWord 32 0x00000026 = some (.send 0x26) ∧
  decodeTableWord 16 0x09F6 = some (.delay 2550)

/-- A step runs the instruction that the word at its agent's port, or at `SNAP[IDX]`, decodes to: the command word offered, the
response word given, the step word, the two request words of the streamer, and a request standing at the boundary. -/
def Obligations.StepRunsDecodedWord : Prop :=
  ∀ (s : State) (i : Instr),
    (∀ w : HcWord, s.turn.agent = .host → s.turn.grain = .whole → s.hph = .idle → s.turn.inputs.offer = some w →
      decode .hc (bytesOfWord 9 w.toNat) = .ok i → step s = exec i s.atTurn) ∧
    (s.turn.agent = .host → s.hph = .rsp → s.turn.inputs.hostReady = true →
      decode .hr (bytesOfWord 46 (responseWord s).toNat) = .ok i → step s = exec i s.atTurn) ∧
    (s.turn.agent = .strm → s.turn.grain = .whole → s.sph = .step →
      decode .st (bytesOfWord 5 (stepWord s.snap[s.idx]).toNat) = .ok i → step s = exec i s.atTurn) ∧
    (s.turn.agent = .strm → s.turn.grain = .micro → s.sph = .step → s.snap[s.idx].dur = 0 →
      decode .st (bytesOfWord 5 (stepWord s.snap[s.idx]).toNat) = .ok i → step s = exec i s.atTurn) ∧
    (s.turn.agent = .strm → s.turn.grain = .micro → s.sph = .step → s.snap[s.idx].dur ≠ 0 →
      s.turn.inputs.tbReady = true → decode .tbs (bytesOfWord 4 s.snap[s.idx].mask.toNat) = .ok i →
      ∃ t, exec i s.atTurn = .next t ∧ step s = .next { t with sph := .dly }) ∧
    (s.turn.agent = .strm → s.turn.grain = .micro → s.sph = .dly →
      decode .tbd (bytesOfWord 2 (delayCount s.quantum s.snap[s.idx].dur).toNat) = .ok i →
      ∃ t, exec i s.atTurn = .next t ∧ step s = .next { t with sph := .wait }) ∧
    (∀ w : TbsWord, s.turn.agent = .boundary → s.tbPort = some (.send w) → s.turn.inputs.tbReady = true →
      decode .tbs (bytesOfWord 4 w.toNat) = .ok i →
      ∃ t, exec i s.atTurn = .next t ∧ step s = .next { t with tbPort := none }) ∧
    (∀ n : TbdWord, s.turn.agent = .boundary → s.tbPort = some (.delay n) →
      decode .tbd (bytesOfWord 2 n.toNat) = .ok i →
      ∃ t, exec i s.atTurn = .next t ∧ step s = .next { t with tbPort := none })

/-! ## The host commands and responses as wholes -/

/-- `UPDATE_LEVELS` (R148): with the lock free and the host ready, the levels and the sequence are replaced, the lock is given back, and
the answer is `ACK`. -/
def Obligations.UpdateLevelsCompletes : Prop :=
  ∀ (l : Levels) (s : State), s.hph = .idle → s.lock = .free → s.inputs.hostReady = true →
    exec (.updateLevels l) s = .next { s with
      levels := l, steps := reflect l, hkind := .upd, hlv := l, inputs := { s.inputs with offer := none },
      hostTrace := s.hostTrace ++ [.cmd (0b01#2 ++ packLevels l), .rsp (0b01#2 ++ 0#360)] }

/-- `READ_SNAPSHOT` (R149): with the lock free and the host ready, `HBUF` gets a copy of the sequence, and the answer is `DATA` with it;
levels, sequence and streamer are unchanged. -/
def Obligations.ReadSnapshotCompletes : Prop :=
  ∀ s : State, s.hph = .idle → s.lock = .free → s.inputs.hostReady = true →
    exec .readSnapshot s = .next { s with
      hbuf := s.steps, hkind := .rd, inputs := { s.inputs with offer := none },
      hostTrace := s.hostTrace ++ [.cmd 0x20000000000000000, .rsp (0b10#2 ++ packSequence s.steps)] }

/-- The three kinds of illegal word (R150): with the host ready the answer is `ERR`, whoever holds the lock, and nothing but the latch
`HKIND` changes in the block. -/
def Obligations.IllegalWordsAnswerErr : Prop :=
  ∀ (arg : LvWord) (s : State), s.hph = .idle → s.inputs.hostReady = true →
    exec (.illegalOp00 arg) s = .next { s with
      hkind := .bad, inputs := { s.inputs with offer := none },
      hostTrace := s.hostTrace ++ [.cmd (0b00#2 ++ arg), .rsp (0b11#2 ++ 0#360)] } ∧
    exec (.illegalOp11 arg) s = .next { s with
      hkind := .bad, inputs := { s.inputs with offer := none },
      hostTrace := s.hostTrace ++ [.cmd (0b11#2 ++ arg), .rsp (0b11#2 ++ 0#360)] } ∧
    (arg ≠ 0 → exec (.illegalRdArg arg) s = .next { s with
      hkind := .bad, inputs := { s.inputs with offer := none },
      hostTrace := s.hostTrace ++ [.cmd (0b10#2 ++ arg), .rsp (0b11#2 ++ 0#360)] })

/-- Where the commands wait: for an idle engine (R140; log entry 18 for `exec` elsewhere), a legal one for the lock (R142, R149), all
for the host (R147). -/
def Obligations.CommandsWait : Prop :=
  ∀ (l : Levels) (arg : LvWord) (s : State),
    (s.hph ≠ .idle →
      exec (.updateLevels l) s = .next s ∧ exec .readSnapshot s = .next s ∧
      exec (.illegalOp00 arg) s = .next s ∧ exec (.illegalOp11 arg) s = .next s ∧
      (arg ≠ 0 → exec (.illegalRdArg arg) s = .next s)) ∧
    (s.hph = .idle → s.lock ≠ .free →
      exec (.updateLevels l) s = .next { s with
        hkind := .upd, hlv := l, hph := .acq, inputs := { s.inputs with offer := none },
        hostTrace := s.hostTrace ++ [.cmd (0b01#2 ++ packLevels l)] } ∧
      exec .readSnapshot s = .next { s with
        hkind := .rd, hph := .acq, inputs := { s.inputs with offer := none },
        hostTrace := s.hostTrace ++ [.cmd 0x20000000000000000] }) ∧
    (s.hph = .idle → s.lock = .free → s.inputs.hostReady = false →
      exec (.updateLevels l) s = .next { s with
        levels := l, steps := reflect l, hkind := .upd, hlv := l, hph := .rsp,
        inputs := { s.inputs with offer := none },
        hostTrace := s.hostTrace ++ [.cmd (0b01#2 ++ packLevels l)] } ∧
      exec .readSnapshot s = .next { s with
        hbuf := s.steps, hkind := .rd, hph := .rsp, inputs := { s.inputs with offer := none },
        hostTrace := s.hostTrace ++ [.cmd 0x20000000000000000] }) ∧
    (s.hph = .idle → s.inputs.hostReady = false →
      exec (.illegalOp00 arg) s = .next { s with
        hkind := .bad, hph := .rsp, inputs := { s.inputs with offer := none },
        hostTrace := s.hostTrace ++ [.cmd (0b00#2 ++ arg)] } ∧
      exec (.illegalOp11 arg) s = .next { s with
        hkind := .bad, hph := .rsp, inputs := { s.inputs with offer := none },
        hostTrace := s.hostTrace ++ [.cmd (0b11#2 ++ arg)] } ∧
      (arg ≠ 0 → exec (.illegalRdArg arg) s = .next { s with
        hkind := .bad, hph := .rsp, inputs := { s.inputs with offer := none },
        hostTrace := s.hostTrace ++ [.cmd (0b10#2 ++ arg)] }))

/-- The three responses (R147): in `H_RSP` with the host ready, the response that `HKIND` and `HBUF` select is given and the engine is
idle again; nothing else changes. -/
def Obligations.ResponsesComplete : Prop :=
  ∀ s : State, s.hph = .rsp → s.inputs.hostReady = true →
    (s.hkind = .upd → exec .ack s = .next { s with
      hph := .idle, hostTrace := s.hostTrace ++ [.rsp (0b01#2 ++ 0#360)] }) ∧
    (s.hkind = .rd → exec (.data s.hbuf) s = .next { s with
      hph := .idle, hostTrace := s.hostTrace ++ [.rsp (0b10#2 ++ packSequence s.hbuf)] }) ∧
    (s.hkind = .bad → exec .err s = .next { s with
      hph := .idle, hostTrace := s.hostTrace ++ [.rsp (0b11#2 ++ 0#360)] })

/-! ## The step words and the boundary requests as wholes -/

/-- `SKIP` (R114, R118): only the index moves on, or wraps with a new snapshot to come; nothing is emitted. -/
def Obligations.SkipCompletes : Prop :=
  ∀ (mask : Mask) (s : State), s.sph = .step → s.snap[s.idx] = ⟨mask, 0⟩ →
    (s.idx = 8 → exec (.skip mask) s = .next { s with idx := 0, sph := .acq }) ∧
    (s.idx ≠ 8 → exec (.skip mask) s = .next { s with idx := s.idx + 1 })

/-- `EMIT` (R119, R118): with a boundary that accepts and completes, the boundary trace gets `SEND mask`, `DELAY dur × Q`, `DELAY_DONE`, the
lines show the mask, no delay is left outstanding, and the index moves on. -/
def Obligations.EmitCompletes : Prop :=
  ∀ (mask : Mask) (dur : Duration) (s : State), s.sph = .step → s.snap[s.idx] = ⟨mask, dur⟩ → dur ≠ 0 →
    s.inputs.tbReady = true → s.inputs.tbDone = true →
    exec (.emit mask dur) s = .next { s with
      idx := if s.idx = 8 then 0 else s.idx + 1, sph := if s.idx = 8 then .acq else .step,
      lastWord := some mask, tbPend := none, delayDone := false,
      tbTrace := s.tbTrace ++ [.send mask, .delay (BitVec.ofNat 16 (dur.toNat * s.quantum.val)), .delayDone] }

/-- Where an `EMIT` waits (R126): with a boundary that does not accept, in `S_STEP` with nothing changed; with one that accepts and does
not complete, in `S_WAIT` with the delay outstanding. -/
def Obligations.EmitWaits : Prop :=
  ∀ (mask : Mask) (dur : Duration) (s : State), s.sph = .step → s.snap[s.idx] = ⟨mask, dur⟩ → dur ≠ 0 →
    (s.inputs.tbReady = false → exec (.emit mask dur) s = .next s) ∧
    (s.inputs.tbReady = true → s.inputs.tbDone = false → s.delayDone = false →
      exec (.emit mask dur) s = .next { s with
        sph := .wait, lastWord := some mask,
        tbPend := some (BitVec.ofNat 16 (dur.toNat * s.quantum.val)),
        tbTrace := s.tbTrace ++ [.send mask, .delay (BitVec.ofNat 16 (dur.toNat * s.quantum.val))] })

/-- `SEND` (R171): taken when the boundary accepts, after which the lines show bits 7 to 0 of the word; otherwise it waits. -/
def Obligations.SendCompletes : Prop :=
  ∀ (word : TbsWord) (s : State),
    (s.inputs.tbReady = true → ∃ t, exec (.send word) s = .next t ∧
      t = { s with lastWord := some word, tbTrace := s.tbTrace ++ [.send word] } ∧
      t.line = word.extractLsb' 0 8) ∧
    (s.inputs.tbReady = false → exec (.send word) s = .next s)

/-- `DELAY` (R172): always accepted; the delay runs in the boundary, and the lines keep what they show. -/
def Obligations.DelayCompletes : Prop :=
  ∀ (count : TbdWord) (s : State), ∃ t, exec (.delay count) s = .next t ∧
    t = { s with tbPend := some count, tbTrace := s.tbTrace ++ [.delay count] } ∧ t.line = s.line

/-! ## The micro-steps of the host engine -/

/-- `H.ACCEPT` (R141). -/
def Obligations.HostAcceptStep : Prop :=
  ∀ s : State, s.turn.agent = .host → s.turn.grain = .micro → s.hph = .idle →
    (s.turn.inputs.offer = none → step s = .next s.atTurn) ∧
    ∀ w : HcWord, s.turn.inputs.offer = some w →
      (w.extractLsb' 64 2 = 0b01 → step s = .next { s.atTurn with
        hkind := .upd, hlv := Vector.ofFn fun c => w.extractLsb' (8 * c.val) 8, hph := .acq,
        inputs := { s.turn.inputs with offer := none }, hostTrace := s.hostTrace ++ [.cmd w] }) ∧
      (w.extractLsb' 64 2 = 0b10 → w.extractLsb' 0 64 = 0 → step s = .next { s.atTurn with
        hkind := .rd, hph := .acq,
        inputs := { s.turn.inputs with offer := none }, hostTrace := s.hostTrace ++ [.cmd w] }) ∧
      (w.extractLsb' 64 2 ≠ 0b01 → ¬(w.extractLsb' 64 2 = 0b10 ∧ w.extractLsb' 0 64 = 0) →
        step s = .next { s.atTurn with
          hkind := .bad, hph := .rsp,
          inputs := { s.turn.inputs with offer := none }, hostTrace := s.hostTrace ++ [.cmd w] })

/-- `H.ACQ` (R142): the engine takes a free lock, and waits for one that is not. -/
def Obligations.HostAcquireStep : Prop :=
  ∀ s : State, s.turn.agent = .host → s.turn.grain = .micro → s.hph = .acq →
    (s.lock = .free → step s = .next { s.atTurn with
      lock := .host, hph := if s.hkind = .upd then .write else .copy }) ∧
    (s.lock ≠ .free → step s = .next s.atTurn)

/-- `H.WRITE` (R143): the levels latched become the levels; `H.REFLECT` (R144): the sequence becomes `REFLECT` of the levels. -/
def Obligations.HostUpdateSteps : Prop :=
  ∀ s : State, s.turn.agent = .host → s.turn.grain = .micro →
    (s.hph = .write → step s = .next { s.atTurn with levels := s.hlv, hph := .reflect }) ∧
    (s.hph = .reflect → step s = .next { s.atTurn with steps := reflect s.levels, hph := .rel })

/-- `H.COPY` (R145). -/
def Obligations.HostCopyStep : Prop :=
  ∀ s : State, s.turn.agent = .host → s.turn.grain = .micro → s.hph = .copy →
    step s = .next { s.atTurn with hbuf := s.steps, hph := .rel }

/-- `H.REL` (R146). -/
def Obligations.HostReleaseStep : Prop :=
  ∀ s : State, s.turn.agent = .host → s.turn.grain = .micro → s.hph = .rel →
    step s = .next { s.atTurn with lock := .free, hph := .rsp }

/-- `H.RSP` (R147): the response goes out when the host is ready; a host that is not ready blocks only the engine (R226). -/
def Obligations.HostResponseStep : Prop :=
  ∀ s : State, s.turn.agent = .host → s.hph = .rsp →
    (s.turn.inputs.hostReady = true → step s = .next { s.atTurn with
      hph := .idle,
      hostTrace := s.hostTrace ++ [.rsp (match s.hkind with
        | .upd => 0b01#2 ++ 0#360
        | .rd => 0b10#2 ++ packSequence s.hbuf
        | .bad => 0b11#2 ++ 0#360)] }) ∧
    (s.turn.inputs.hostReady = false → step s = .next s.atTurn)

/-! ## The micro-steps of the streamer and of the boundary -/

/-- `S.ACQ` (R111): the streamer takes a free lock, and waits for one that is not. -/
def Obligations.StreamerAcquireStep : Prop :=
  ∀ s : State, s.turn.agent = .strm → s.turn.grain = .micro → s.sph = .acq →
    (s.lock = .free → step s = .next { s.atTurn with lock := .strm, sph := .copy }) ∧
    (s.lock ≠ .free → step s = .next s.atTurn)

/-- `S.COPY` (R112). -/
def Obligations.StreamerCopyStep : Prop :=
  ∀ s : State, s.turn.agent = .strm → s.turn.grain = .micro → s.sph = .copy →
    step s = .next { s.atTurn with snap := s.steps, sph := .rel }

/-- `S.REL` (R113). -/
def Obligations.StreamerReleaseStep : Prop :=
  ∀ s : State, s.turn.agent = .strm → s.turn.grain = .micro → s.sph = .rel →
    step s = .next { s.atTurn with lock := .free, sph := .step }

/-- `S.SKIP` (R114) and ADVANCE (R118). -/
def Obligations.StreamerSkipStep : Prop :=
  ∀ s : State, s.turn.agent = .strm → s.sph = .step → s.snap[s.idx].dur = 0 →
    step s = .next { s.atTurn with
      idx := if s.idx = 8 then 0 else s.idx + 1, sph := if s.idx = 8 then .acq else .step }

/-- `S.SEND` (R115): with a boundary that accepts, the mask is sent as stored; otherwise the streamer waits (R126). -/
def Obligations.StreamerSendStep : Prop :=
  ∀ s : State, s.turn.agent = .strm → s.turn.grain = .micro → s.sph = .step → s.snap[s.idx].dur ≠ 0 →
    (s.turn.inputs.tbReady = true → step s = .next { s.atTurn with
      sph := .dly, lastWord := some s.snap[s.idx].mask,
      tbTrace := s.tbTrace ++ [.send s.snap[s.idx].mask] }) ∧
    (s.turn.inputs.tbReady = false → step s = .next s.atTurn)

/-- `S.DLY` (R116). -/
def Obligations.StreamerDelayStep : Prop :=
  ∀ s : State, s.turn.agent = .strm → s.turn.grain = .micro → s.sph = .dly →
    step s = .next { s.atTurn with
      sph := .wait, tbPend := some (BitVec.ofNat 16 (s.snap[s.idx].dur.toNat * s.quantum.val)),
      tbTrace := s.tbTrace ++ [.delay (BitVec.ofNat 16 (s.snap[s.idx].dur.toNat * s.quantum.val))] }

/-- `S.RESUME` (R117) and ADVANCE (R118): a `DELAY_DONE` is consumed; without one the streamer waits (R126). -/
def Obligations.StreamerResumeStep : Prop :=
  ∀ s : State, s.turn.agent = .strm → s.turn.grain = .micro → s.sph = .wait →
    (s.delayDone = true → step s = .next { s.atTurn with
      delayDone := false, tbTrace := s.tbTrace ++ [.delayDone],
      idx := if s.idx = 8 then 0 else s.idx + 1, sph := if s.idx = 8 then .acq else .step }) ∧
    (s.delayDone = false → step s = .next s.atTurn)

/-- The boundary's step (R173, R176): a delay that runs ends with one `DELAY_DONE`; with none running nothing is given. -/
def Obligations.BoundaryCompletionStep : Prop :=
  ∀ s : State, s.turn.agent = .boundary → s.tbPort = none →
    (s.tbPend ≠ none → step s = .next { s.atTurn with tbPend := none, delayDone := true }) ∧
    (s.tbPend = none → step s = .next s.atTurn)

/-! ## Who may touch what -/

/-- R55, R194: a turn of the host engine, one micro-step or a whole command, leaves the streamer, the boundary and `Q` as they are. -/
def Obligations.HostTurnFrame : Prop :=
  ∀ s t : State, s.turn.agent = .host → step s = .next t →
    t.snap = s.snap ∧ t.idx = s.idx ∧ t.sph = s.sph ∧ t.lastWord = s.lastWord ∧ t.tbPend = s.tbPend ∧
    t.delayDone = s.delayDone ∧ t.tbPort = s.tbPort ∧ t.tbTrace = s.tbTrace ∧ t.quantum = s.quantum

/-- R194: a turn of the streamer leaves the shared record and the host engine as they are. -/
def Obligations.StreamerTurnFrame : Prop :=
  ∀ s t : State, s.turn.agent = .strm → step s = .next t →
    t.levels = s.levels ∧ t.steps = s.steps ∧ t.hph = s.hph ∧ t.hkind = s.hkind ∧ t.hlv = s.hlv ∧
    t.hbuf = s.hbuf ∧ t.hostTrace = s.hostTrace ∧ t.tbPort = s.tbPort ∧ t.quantum = s.quantum

/-- R194: a turn of the boundary leaves the whole block as it is, and only its own state and trace can change. -/
def Obligations.BoundaryTurnFrame : Prop :=
  ∀ s t : State, s.turn.agent = .boundary → step s = .next t →
    t.toBlock = s.toBlock ∧ t.hostTrace = s.hostTrace ∧ t.quantum = s.quantum ∧
    (s.tbPort = none → t.lastWord = s.lastWord ∧ t.tbTrace = s.tbTrace ∧ t.tbPort = none)

/-- R51, R194: a turn of the streamer does the same whatever the levels and the host engine's registers hold: it reads none of
them. -/
def Obligations.StreamerBlindToLevels : Prop :=
  ∀ (s t t' : State) (levels hlv : Levels) (hbuf : Sequence) (hkind : HKind) (hph : HPhase),
    s.turn.agent = .strm → step s = .next t →
    step { s with levels := levels, hlv := hlv, hbuf := hbuf, hkind := hkind, hph := hph } = .next t' →
    t' = { t with levels := levels, hlv := hlv, hbuf := hbuf, hkind := hkind, hph := hph }

/-- R27: no step reads a trace: with other traces a step does the same to everything else. -/
def Obligations.TracesAreNotRead : Prop :=
  ∀ (s t t' : State) (hostTrace : List HostEvent) (tbTrace : List TbEvent),
    step s = .next t → step { s with hostTrace := hostTrace, tbTrace := tbTrace } = .next t' →
    t' = { t with hostTrace := t'.hostTrace, tbTrace := t'.tbTrace }

/-- R185, R192: no step ends in a fault or a refusal; an agent with no enabled micro-step waits. -/
def Obligations.EveryStepGoesOn : Prop := ∀ s : State, ∃ t, step s = .next t ∧ t.turnNo = s.turnNo + 1

/-- R7: a `Q` outside 1 to 257 is refused, one inside gives the reset state with that `Q`, and no step changes it. -/
def Obligations.QuantumIsStatic : Prop :=
  (∀ n : Nat, 1 ≤ n → n ≤ 257 → ∃ q : Quantum, q.val = n ∧ State.configure n = .next (State.resetWith q)) ∧
  (∀ n : Nat, n = 0 ∨ 257 < n → State.configure n = .refused (.illegalQuantum n)) ∧
  ∀ s t : State, step s = .next t → t.quantum = s.quantum

/-- R43 and the column "who writes" of R10: which micro-step, by its agent and phase, can change which register. -/
def Obligations.MicroStepWrites : Prop :=
  ∀ s t : State, s.turn.grain = .micro → step s = .next t →
    (t.levels ≠ s.levels → s.turn.agent = .host ∧ s.hph = .write) ∧
    (t.steps ≠ s.steps → s.turn.agent = .host ∧ s.hph = .reflect) ∧
    (t.lock ≠ s.lock → s.turn.agent = .host ∧ (s.hph = .acq ∨ s.hph = .rel) ∨
      s.turn.agent = .strm ∧ (s.sph = .acq ∨ s.sph = .rel)) ∧
    (t.sph ≠ s.sph → s.turn.agent = .strm) ∧
    (t.idx ≠ s.idx → s.turn.agent = .strm ∧ (s.sph = .step ∨ s.sph = .wait)) ∧
    (t.snap ≠ s.snap → s.turn.agent = .strm ∧ s.sph = .copy) ∧
    (t.hph ≠ s.hph → s.turn.agent = .host) ∧
    (t.hkind ≠ s.hkind ∨ t.hlv ≠ s.hlv → s.turn.agent = .host ∧ s.hph = .idle) ∧
    (t.hbuf ≠ s.hbuf → s.turn.agent = .host ∧ s.hph = .copy)

/-- R171, R174 (B5): what the lines show changes only by a word that the turn sends, to that word's bits 7 to 0. -/
def Obligations.LinesHoldLastWord : Prop :=
  ∀ s t : State, step s = .next t → t.line ≠ s.line →
    ∃ w, .send w ∈ t.tbTrace.drop s.tbTrace.length ∧ t.line = w.extractLsb' 0 8

/-! ## The lock, and what a response means -/

/-- R48: a critical section ends within three micro-steps of the host engine, or two of the streamer, whatever the outside does at each
of them. -/
def Obligations.LockHeldBriefly : Prop :=
  ∀ (s : State) (first second third : Inputs), Inv s →
    (s.lock = .host → ∃ t,
      Sys2Proof.core.run 3 (s.withTurns
        [⟨.host, .micro, first⟩, ⟨.host, .micro, second⟩, ⟨.host, .micro, third⟩]) = .next t ∧ t.lock = .free) ∧
    (s.lock = .strm → ∃ t,
      Sys2Proof.core.run 2 (s.withTurns [⟨.strm, .micro, first⟩, ⟨.strm, .micro, second⟩]) = .next t ∧ t.lock = .free)

/-- R122, R222: an agent that a turn leaves waiting does not hold the lock, and waits in one of the phases listed there. -/
def Obligations.NoWaitWithLock : Prop :=
  ∀ s : State, Inv s → step s = .next s.atTurn →
    (s.turn.agent = .host →
      s.lock ≠ .host ∧ (s.hph = .idle ∨ s.hph = .rsp ∨ s.hph = .acq ∧ s.lock ≠ .free)) ∧
    (s.turn.agent = .strm →
      s.lock ≠ .strm ∧ (s.sph = .step ∨ s.sph = .wait ∨ s.sph = .acq ∧ s.lock ≠ .free))

/-- R50, R147: when `ACK` is given, levels and sequence are those of the update; when `DATA` is given, it is the current sequence. -/
def Obligations.ResponseMeaning : Prop :=
  ∀ s t : State, Inv s → s.turn.agent = .host → s.hph = .rsp → step s = .next t → t.hostTrace ≠ s.hostTrace →
    (s.hkind = .upd → t.hostTrace = s.hostTrace ++ [.rsp (0b01#2 ++ 0#360)] ∧
      t.levels = s.hlv ∧ t.steps = reflect s.hlv) ∧
    (s.hkind = .rd → t.hostTrace = s.hostTrace ++ [.rsp (0b10#2 ++ packSequence t.steps)]) ∧
    (s.hkind = .bad → t.hostTrace = s.hostTrace ++ [.rsp (0b11#2 ++ 0#360)])

/-! ## The REFLECT transform -/

/-- R91: `ord` is a permutation of the channels, strictly ascending in the key `l[c] × 8 + c`, and the only one. -/
def Obligations.SortOrder : Prop :=
  ∀ l : Levels,
    (sortChannels l).Perm [0, 1, 2, 3, 4, 5, 6, 7] ∧
    (sortChannels l).Pairwise (fun a b => l[a].toNat * 8 + a.val < l[b].toNat * 8 + b.val) ∧
    ∀ ord : List Channel, ord.Perm [0, 1, 2, 3, 4, 5, 6, 7] →
      ord.Pairwise (fun a b => l[a].toNat * 8 + a.val < l[b].toNat * 8 + b.val) → ord = sortChannels l

/-- R93, R94, R95: the nine durations are the exact differences between 0, the sorted levels and 255, with no wrap-around. -/
def Obligations.DurationsAreExactDifferences : Prop :=
  ∀ (l : Levels) (k : StepIndex),
    (transitionTimes l)[k.val]? = some ((transitionTimes l).getD k.val 0) ∧
    (transitionTimes l)[k.val + 1]? = some ((transitionTimes l).getD k.val 0 + (reflect l)[k].dur.toNat)

/-- R96: the nine durations add up to 255. -/
def Obligations.DurationsSumTo255 : Prop := ∀ l : Levels, durationSum (reflect l) = 255

/-- R97: each channel is ON up to its position in `ord` and OFF after it, the durations up to there add up to its level, and so does
its effective ON-duration. -/
def Obligations.OnDurationIsLevel : Prop :=
  ∀ (l : Levels) (c : Channel) (p : Nat), (sortChannels l)[p]? = some c →
    (∀ k : StepIndex, (reflect l)[k].mask.getLsbD c.val = decide (k.val ≤ p)) ∧
    (((reflect l).toList.take (p + 1)).map fun st => st.dur.toNat).sum = l[c].toNat ∧
    onDuration (reflect l) c = l[c].toNat

/-- R98: the shape of the bitmasks. -/
def Obligations.MaskShape : Prop :=
  ∀ l : Levels,
    (reflect l)[0].mask = 0x000000FF ∧
    (∀ k : StepIndex,
      ((List.range 32).filter fun b => (reflect l)[k].mask.getLsbD b).length = 8 - k.val ∧
      (∀ b, 8 ≤ b → (reflect l)[k].mask.getLsbD b = false) ∧
      ∀ c : Channel, (reflect l)[k].mask.getLsbD c.val = true ↔ c ∈ (sortChannels l).drop k.val) ∧
    ∀ (k : Fin 8) (c : Channel), (sortChannels l)[k.val]? = some c →
      (reflect l)[k.val].mask.getLsbD c.val = true ∧
      (reflect l)[k.val + 1].mask = (reflect l)[k.val].mask &&& ~~~(1#32 <<< c.val)

/-- R99: which steps are effective; their number is the number of distinct non-zero levels, and one more unless some level is 255. -/
def Obligations.EffectiveStepCount : Prop :=
  ∀ l : Levels,
    (∀ k : StepIndex, (reflect l)[k].dur ≠ 0 ↔
      (transitionTimes l).getD k.val 0 < (transitionTimes l).getD (k.val + 1) 0) ∧
    ((reflect l)[8].dur ≠ 0 ↔ ∀ c : Channel, l[c] < 255) ∧
    effectiveCount (reflect l) =
      ((l.toList.filter (· ≠ 0)).dedup).length + (if (255 : Level) ∈ l.toList then 0 else 1) ∧
    1 ≤ effectiveCount (reflect l) ∧ effectiveCount (reflect l) ≤ 9

/-- R101: with any two ascending orders of the same levels the durations agree, the masks of the effective steps agree, and so does the
boundary trace. -/
def Obligations.TieBreakInvisible : Prop :=
  ∀ (l : Levels) (ord ord' : List Channel),
    ord.Perm [0, 1, 2, 3, 4, 5, 6, 7] → ord'.Perm [0, 1, 2, 3, 4, 5, 6, 7] →
    ord.Pairwise (fun a b => l[a] ≤ l[b]) → ord'.Pairwise (fun a b => l[a] ≤ l[b]) →
    (∀ (k : Nat) (st st' : Step), (reflectLoop l ord 0xFF 0)[k]? = some st →
      (reflectLoop l ord' 0xFF 0)[k]? = some st' → st.dur = st'.dur ∧ (st.dur ≠ 0 → st.mask = st'.mask)) ∧
    ∀ q : Quantum, (reflectLoop l ord 0xFF 0).flatMap (stepEvents q) = (reflectLoop l ord' 0xFF 0).flatMap (stepEvents q)

/-- R69: the delay count is exact; for a duration that is not 0 it lies between `Q` and `255 × Q`. -/
def Obligations.DelayCountExact : Prop :=
  ∀ (q : Quantum) (dur : Duration),
    (delayCount q dur).toNat = dur.toNat * q.val ∧
    (dur ≠ 0 → q.val ≤ (delayCount q dur).toNat) ∧ (delayCount q dur).toNat ≤ 255 * q.val

/-! ## Whole instructions and micro-steps; cycles -/

/-- R57, R148 to R150: a whole turn of the host engine ends in the same state as its micro-steps taken one by one: a whole command, for
every word, whoever holds the lock and whether or not the host takes the response; and the rest of a command begun earlier, from every
phase. -/
def Obligations.WholeCommandIsItsMicroSteps : Prop :=
  ∀ (s : State) (inputs : Inputs),
    (s.hph = .idle → ∀ w : HcWord, ∃ t u,
      Sys2Proof.core.run 1 (s.withTurns [⟨.host, .whole, { inputs with offer := some w }⟩]) = .next t ∧
      Sys2Proof.core.run 6 (s.withTurns (⟨.host, .micro, { inputs with offer := some w }⟩ ::
        List.replicate 5 ⟨.host, .micro, { inputs with offer := none }⟩)) = .next u ∧
      t = { u with turnNo := t.turnNo }) ∧
    (s.hph ≠ .idle → ∃ t u,
      Sys2Proof.core.run 1 (s.withTurns [⟨.host, .whole, inputs⟩]) = .next t ∧
      Sys2Proof.core.run 5 (s.withTurns (List.replicate 5 ⟨.host, .micro, { inputs with offer := none }⟩)) = .next u ∧
      t = { u with inputs := inputs, turnNo := t.turnNo })

/-- R57, R119: a whole turn of the streamer, from every phase, ends in the same state as the micro-steps it stands for taken one by one:
the rest of the snapshot section, a `SKIP`, or the rest of an `EMIT` with the boundary's completion where the turn's inputs give it, accepted
or not, completed or not. -/
def Obligations.WholeStreamerTurnIsItsMicroSteps : Prop :=
  ∀ (s : State) (inputs : Inputs), Inv s → ∃ t u,
    Sys2Proof.core.run 1 (s.withTurns [⟨.strm, .whole, inputs⟩]) = .next t ∧
    Sys2Proof.core.run (streamerMicroTurns s inputs).length (s.withTurns (streamerMicroTurns s inputs)) = .next u ∧
    t = { u with turnNo := t.turnNo }

/-- R120, under every interleaving: what the current cycle has put on the boundary trace is always what its snapshot prescribes up to
the point reached, and when the cycle wraps it is the whole of it. -/
def Obligations.BoundaryTraceFollowsSnapshot : Prop :=
  ∀ (s t : State) (past : List TbEvent), Inv s → s.tbTrace = past ++ cycleProgress s → step s = .next t →
    t.tbTrace = past ++ cycleProgress t ∨
    (t.sph = .acq ∧ t.idx = 0 ∧ t.tbTrace = past ++ cycleTrace s.quantum s.snap)

/-- R120: ten streamer turns (the snapshot section and nine step words) with a willing boundary are one cycle: its trace is that of the
sequence in force when it began, and it ends where it began. -/
def Obligations.OneCycleCompletes : Prop :=
  ∀ (s : State) (inputs : Inputs), s.sph = .acq → s.lock = .free → s.idx = 0 →
    inputs.tbReady = true → inputs.tbDone = true → ∃ t,
      Sys2Proof.core.run 10 (s.withTurns (List.replicate 10 ⟨.strm, .whole, inputs⟩)) = .next t ∧
      t.tbTrace = s.tbTrace ++ cycleTrace s.quantum s.steps ∧ t.snap = s.steps ∧ t.sph = .acq ∧ t.idx = 0 ∧
      t.lock = .free

/-- R121: over a cycle the delay counts add up to `255 × Q`, those under words with bit `c` set to `l[c] × Q`; there are as many words
as effective steps; the first shows every channel with a non-zero level, and the last is 0 unless some level is 255. -/
def Obligations.CycleSums : Prop :=
  ∀ (q : Quantum) (l : Levels),
    ((cycleTrace q (reflect l)).map TbEvent.count).sum = 255 * q.val ∧
    (∀ c : Channel, onDelay c false (cycleTrace q (reflect l)) = l[c].toNat * q.val) ∧
    (cycleTrace q (reflect l)).countP TbEvent.isSend = effectiveCount (reflect l) ∧
    (1 ≤ effectiveCount (reflect l) ∧ effectiveCount (reflect l) ≤ 9) ∧
    (∃ w, (cycleTrace q (reflect l)).head? = some (.send w) ∧ ∀ c : Channel, l[c] ≠ 0 → w.getLsbD c.val = true) ∧
    ((255 : Level) ∉ l.toList → ∃ before n, cycleTrace q (reflect l) = before ++ [.send 0, .delay n, .delayDone])
end

