-- ==== Sys2Proof/Laws/Decode.lean ====
section
/-! SUPPORT. Packing and unpacking undo each other (formats LV, ST, SQ), bytes and numbers do, and H.ACCEPT latches from an encoded
command word what the command says. -/

namespace Sys2Proof

/-! ## Little-endian digits -/

theorem packLittle_lt (w : Nat) (xs : List (BitVec w)) : packLittle w xs < 2 ^ (w * xs.length) := by
  induction xs with
  | nil => simp [packLittle]
  | cons x xs ih =>
    have hx := x.isLt
    have : 2 ^ (w * (xs.length + 1)) = 2 ^ w * 2 ^ (w * xs.length) := by ring
    simp only [packLittle, List.length_cons, this]
    calc x.toNat + 2 ^ w * packLittle w xs < 2 ^ w * (packLittle w xs + 1) := by ring_nf; omega
      _ ≤ 2 ^ w * 2 ^ (w * xs.length) := Nat.mul_le_mul_left _ ih

/-- Digit `k` of the packed number is element `k`. -/
theorem packLittle_digit (w : Nat) (xs : List (BitVec w)) (k : Nat) (h : k < xs.length) :
    BitVec.ofNat w (packLittle w xs / 2 ^ (w * k)) = xs[k] := by
  induction xs generalizing k with
  | nil => simp at h
  | cons x xs ih =>
    cases k with
    | zero =>
      apply BitVec.eq_of_toNat_eq
      simp [packLittle, BitVec.toNat_ofNat, Nat.mod_eq_of_lt x.isLt]
    | succ k =>
      have hd : packLittle w (x :: xs) / 2 ^ (w * (k + 1)) = packLittle w xs / 2 ^ (w * k) := by
        rw [packLittle, show w * (k + 1) = w + w * k by ring, pow_add, ← Nat.div_div_eq_div_mul]
        rw [Nat.add_mul_div_left _ _ (Nat.two_pow_pos w), Nat.div_eq_of_lt x.isLt, Nat.zero_add]
      simp only [hd, List.getElem_cons_succ]
      exact ih k (by simpa using h)

/-- The number packed from its own first `n` digits is the number modulo `2^(w*n)`. -/
theorem packLittle_digits (w n v : Nat) :
    packLittle w ((List.range n).map fun k => BitVec.ofNat w (v / 2 ^ (w * k))) = v % 2 ^ (w * n) := by
  induction n generalizing v with
  | zero => simp [packLittle, Nat.mod_one]
  | succ n ih =>
    rw [List.range_succ_eq_map, List.map_cons, List.map_map, packLittle]
    have := ih (v / 2 ^ w)
    have he : ((fun k => BitVec.ofNat w (v / 2 ^ (w * k))) ∘ Nat.succ)
        = fun k => BitVec.ofNat w (v / 2 ^ w / 2 ^ (w * k)) := by
      funext k
      simp only [Function.comp, Nat.succ_eq_add_one]
      rw [Nat.div_div_eq_div_mul, ← pow_add, show w * (k + 1) = w + w * k by ring]
    rw [he, this]
    simp only [Nat.mul_zero, pow_zero, Nat.div_one, BitVec.toNat_ofNat]
    rw [show w * (n + 1) = w + w * n by ring, pow_add, Nat.mod_mul]

theorem extractLsb'_eq_ofNat {n : Nat} (x : BitVec n) (i len : Nat) :
    x.extractLsb' i len = BitVec.ofNat len (x.toNat / 2 ^ i) := by
  rw [← Nat.shiftRight_eq_div_pow]; rfl

/-! ## Formats LV, ST, SQ -/

@[simp] theorem unpackLevels_packLevels (l : Levels) : unpackLevels (packLevels l) = l := by
  apply Vector.ext
  intro k hk
  have hlt : packLittle 8 l.toList < 2 ^ 64 := by simpa using packLittle_lt 8 l.toList
  have := packLittle_digit 8 l.toList k (by simpa using hk)
  simp only [unpackLevels, packLevels, Vector.getElem_ofFn, extractLsb'_eq_ofNat, BitVec.toNat_ofNat, Nat.mod_eq_of_lt hlt]
  simpa using this

@[simp] theorem packLevels_unpackLevels (lv : LvWord) : packLevels (unpackLevels lv) = lv := by
  apply BitVec.eq_of_toNat_eq
  have hl : (unpackLevels lv).toList = (List.range 8).map fun k => BitVec.ofNat 8 (lv.toNat / 2 ^ (8 * k)) := by
    apply List.ext_getElem
    · simp
    · intro k h1 h2
      simp [unpackLevels, extractLsb'_eq_ofNat]
  simp only [packLevels, hl, packLittle_digits, BitVec.toNat_ofNat]
  have := lv.isLt
  omega

@[simp] theorem stepOfWord_stepWord (s : Step) : stepOfWord (stepWord s) = s := by
  cases s with
  | mk mask dur =>
    simp only [stepOfWord, stepWord, Step.mk.injEq]
    constructor <;> apply BitVec.eq_of_getLsbD_eq <;> intro i hi <;>
      simp only [BitVec.getLsbD_extractLsb', BitVec.getLsbD_append] <;> simp [hi]

@[simp] theorem stepWord_stepOfWord (w : StWord) : stepWord (stepOfWord w) = w := by
  apply BitVec.eq_of_getLsbD_eq
  intro i hi
  simp only [stepOfWord, stepWord, BitVec.getLsbD_append, BitVec.getLsbD_extractLsb']
  by_cases h : i < 32
  · simp [h]
  · simp [h, show 32 + (i - 32) = i by omega, show i - 32 < 8 by omega]

@[simp] theorem unpackSequence_packSequence (q : Sequence) : unpackSequence (packSequence q) = q := by
  apply Vector.ext
  intro k hk
  have hlt : packLittle 40 (q.toList.map stepWord) < 2 ^ 360 := by
    simpa using packLittle_lt 40 (q.toList.map stepWord)
  have := packLittle_digit 40 (q.toList.map stepWord) k (by simpa using hk)
  simp only [unpackSequence, packSequence, Vector.getElem_ofFn, extractLsb'_eq_ofNat, BitVec.toNat_ofNat,
    Nat.mod_eq_of_lt hlt, this]
  simp

@[simp] theorem packSequence_unpackSequence (sq : SqWord) : packSequence (unpackSequence sq) = sq := by
  apply BitVec.eq_of_toNat_eq
  have hl : (unpackSequence sq).toList.map stepWord =
      (List.range 9).map fun k => BitVec.ofNat 40 (sq.toNat / 2 ^ (40 * k)) := by
    apply List.ext_getElem
    · simp
    · intro k h1 h2
      simp [unpackSequence, extractLsb'_eq_ofNat]
  simp only [packSequence, hl, packLittle_digits, BitVec.toNat_ofNat]
  have := sq.isLt
  rw [Nat.mod_mod_of_dvd _ (dvd_refl _)]
  exact Nat.mod_eq_of_lt this

/-! ## The two fields of the host port words -/

@[simp] theorem hcOp_hcWord (op : BitVec 2) (arg : LvWord) : hcOp (hcWord op arg) = op := by
  apply BitVec.eq_of_getLsbD_eq; intro i hi
  simp only [hcOp, hcWord, BitVec.getLsbD_extractLsb', BitVec.getLsbD_append]
  simp [hi]

@[simp] theorem hcArg_hcWord (op : BitVec 2) (arg : LvWord) : hcArg (hcWord op arg) = arg := by
  apply BitVec.eq_of_getLsbD_eq; intro i hi
  simp only [hcArg, hcWord, BitVec.getLsbD_extractLsb', BitVec.getLsbD_append]
  simp [hi]

@[simp] theorem hcWord_fields (w : HcWord) : hcWord (hcOp w) (hcArg w) = w := by
  apply BitVec.eq_of_getLsbD_eq; intro i hi
  simp only [hcOp, hcArg, hcWord, BitVec.getLsbD_append, BitVec.getLsbD_extractLsb']
  by_cases h : i < 64
  · simp [h]
  · simp [h, show 64 + (i - 64) = i by omega, show i - 64 < 2 by omega]

@[simp] theorem hrKind_hrWord (kind : BitVec 2) (data : SqWord) : hrKind (hrWord kind data) = kind := by
  apply BitVec.eq_of_getLsbD_eq; intro i hi
  simp only [hrKind, hrWord, BitVec.getLsbD_extractLsb', BitVec.getLsbD_append]
  simp [hi]

@[simp] theorem hrData_hrWord (kind : BitVec 2) (data : SqWord) : hrData (hrWord kind data) = data := by
  apply BitVec.eq_of_getLsbD_eq; intro i hi
  simp only [hrData, hrWord, BitVec.getLsbD_extractLsb', BitVec.getLsbD_append]
  simp [hi]

@[simp] theorem hrWord_fields (w : HrWord) : hrWord (hrKind w) (hrData w) = w := by
  apply BitVec.eq_of_getLsbD_eq; intro i hi
  simp only [hrKind, hrData, hrWord, BitVec.getLsbD_append, BitVec.getLsbD_extractLsb']
  by_cases h : i < 360
  · simp [h]
  · simp [h, show 360 + (i - 360) = i by omega, show i - 360 < 2 by omega]

/-! ## Bytes -/

theorem bytesOfWord_length (n w : Nat) : (bytesOfWord n w).length = n := by
  induction n generalizing w with
  | zero => rfl
  | succ n ih => simp [bytesOfWord, ih]

theorem wordOfBytes_bytesOfWord (n w : Nat) : wordOfBytes (bytesOfWord n w) = w % 256 ^ n := by
  induction n generalizing w with
  | zero => simp [bytesOfWord, wordOfBytes, packLittle, Nat.mod_one]
  | succ n ih =>
    simp only [wordOfBytes] at ih
    simp only [bytesOfWord, wordOfBytes, packLittle, ih, BitVec.toNat_ofNat]
    rw [show 256 ^ (n + 1) = 256 * 256 ^ n by ring, Nat.mod_mul, show 2 ^ 8 = 256 by rfl]

theorem bytesOfWord_wordOfBytes (bs : List Byte) : bytesOfWord bs.length (wordOfBytes bs) = bs := by
  induction bs with
  | nil => rfl
  | cons b bs ih =>
    have hb := b.isLt
    simp only [wordOfBytes] at ih
    simp only [List.length_cons, wordOfBytes, packLittle, bytesOfWord, List.cons.injEq]
    constructor
    · apply BitVec.eq_of_toNat_eq
      simp only [BitVec.toNat_ofNat]
      omega
    · rw [show (b.toNat + 2 ^ 8 * packLittle 8 bs) / 256 = packLittle 8 bs by omega]
      exact ih

end Sys2Proof

namespace Sys2Proof.Machine

/-! ## What H.ACCEPT latches from an encoded command (R141, R148 to R150) -/

theorem latchWord_updateLevels (l : Levels) (s : State) :
    latchWord (encodeHostCommand (.updateLevels l)) s = s.latchUpdate l := by
  simp [latchWord, encodeHostCommand]

theorem latchWord_readSnapshot (s : State) : latchWord (encodeHostCommand .readSnapshot) s = s.latchRead := by
  simp [latchWord, encodeHostCommand]

theorem latchWord_illegalOp00 (arg : LvWord) (s : State) :
    latchWord (encodeHostCommand (.illegalOp00 arg)) s = s.raiseIllegalCommand := by
  simp [latchWord, encodeHostCommand]

theorem latchWord_illegalOp11 (arg : LvWord) (s : State) :
    latchWord (encodeHostCommand (.illegalOp11 arg)) s = s.raiseIllegalCommand := by
  simp [latchWord, encodeHostCommand]

theorem latchWord_illegalRdArg (arg : LvWord) (h : arg ≠ 0) (s : State) :
    latchWord (encodeHostCommand (.illegalRdArg arg)) s = s.raiseIllegalCommand := by
  have h' : arg ≠ 0#64 := h
  simp [latchWord, encodeHostCommand, h']

end Sys2Proof.Machine
end

