-- ==== Sys2Proof/Laws/State.lean ====
section
/-! SUPPORT. What each named update does to each field of the state, true by definition, so that no later proof unfolds an update. -/

namespace Sys2Proof.Machine

variable (s : State)

/-! ### `emitHost` -/

@[simp] theorem State.emitHost_levels (e : HostEvent) : (s.emitHost e).levels = s.levels := rfl
@[simp] theorem State.emitHost_steps (e : HostEvent) : (s.emitHost e).steps = s.steps := rfl
@[simp] theorem State.emitHost_lock (e : HostEvent) : (s.emitHost e).lock = s.lock := rfl
@[simp] theorem State.emitHost_sph (e : HostEvent) : (s.emitHost e).sph = s.sph := rfl
@[simp] theorem State.emitHost_idx (e : HostEvent) : (s.emitHost e).idx = s.idx := rfl
@[simp] theorem State.emitHost_snap (e : HostEvent) : (s.emitHost e).snap = s.snap := rfl
@[simp] theorem State.emitHost_hph (e : HostEvent) : (s.emitHost e).hph = s.hph := rfl
@[simp] theorem State.emitHost_hkind (e : HostEvent) : (s.emitHost e).hkind = s.hkind := rfl
@[simp] theorem State.emitHost_hlv (e : HostEvent) : (s.emitHost e).hlv = s.hlv := rfl
@[simp] theorem State.emitHost_hbuf (e : HostEvent) : (s.emitHost e).hbuf = s.hbuf := rfl
@[simp] theorem State.emitHost_lastWord (e : HostEvent) : (s.emitHost e).lastWord = s.lastWord := rfl
@[simp] theorem State.emitHost_tbPend (e : HostEvent) : (s.emitHost e).tbPend = s.tbPend := rfl
@[simp] theorem State.emitHost_delayDone (e : HostEvent) : (s.emitHost e).delayDone = s.delayDone := rfl
@[simp] theorem State.emitHost_quantum (e : HostEvent) : (s.emitHost e).quantum = s.quantum := rfl
@[simp] theorem State.emitHost_inputs (e : HostEvent) : (s.emitHost e).inputs = s.inputs := rfl
@[simp] theorem State.emitHost_tbPort (e : HostEvent) : (s.emitHost e).tbPort = s.tbPort := rfl
@[simp] theorem State.emitHost_hostTrace (e : HostEvent) : (s.emitHost e).hostTrace = s.hostTrace ++ [e] := rfl
@[simp] theorem State.emitHost_tbTrace (e : HostEvent) : (s.emitHost e).tbTrace = s.tbTrace := rfl
@[simp] theorem State.emitHost_sched (e : HostEvent) : (s.emitHost e).sched = s.sched := rfl
@[simp] theorem State.emitHost_turnNo (e : HostEvent) : (s.emitHost e).turnNo = s.turnNo := rfl

/-! ### `emitTb` -/

@[simp] theorem State.emitTb_levels (e : TbEvent) : (s.emitTb e).levels = s.levels := rfl
@[simp] theorem State.emitTb_steps (e : TbEvent) : (s.emitTb e).steps = s.steps := rfl
@[simp] theorem State.emitTb_lock (e : TbEvent) : (s.emitTb e).lock = s.lock := rfl
@[simp] theorem State.emitTb_sph (e : TbEvent) : (s.emitTb e).sph = s.sph := rfl
@[simp] theorem State.emitTb_idx (e : TbEvent) : (s.emitTb e).idx = s.idx := rfl
@[simp] theorem State.emitTb_snap (e : TbEvent) : (s.emitTb e).snap = s.snap := rfl
@[simp] theorem State.emitTb_hph (e : TbEvent) : (s.emitTb e).hph = s.hph := rfl
@[simp] theorem State.emitTb_hkind (e : TbEvent) : (s.emitTb e).hkind = s.hkind := rfl
@[simp] theorem State.emitTb_hlv (e : TbEvent) : (s.emitTb e).hlv = s.hlv := rfl
@[simp] theorem State.emitTb_hbuf (e : TbEvent) : (s.emitTb e).hbuf = s.hbuf := rfl
@[simp] theorem State.emitTb_lastWord (e : TbEvent) : (s.emitTb e).lastWord = s.lastWord := rfl
@[simp] theorem State.emitTb_tbPend (e : TbEvent) : (s.emitTb e).tbPend = s.tbPend := rfl
@[simp] theorem State.emitTb_delayDone (e : TbEvent) : (s.emitTb e).delayDone = s.delayDone := rfl
@[simp] theorem State.emitTb_quantum (e : TbEvent) : (s.emitTb e).quantum = s.quantum := rfl
@[simp] theorem State.emitTb_inputs (e : TbEvent) : (s.emitTb e).inputs = s.inputs := rfl
@[simp] theorem State.emitTb_tbPort (e : TbEvent) : (s.emitTb e).tbPort = s.tbPort := rfl
@[simp] theorem State.emitTb_hostTrace (e : TbEvent) : (s.emitTb e).hostTrace = s.hostTrace := rfl
@[simp] theorem State.emitTb_tbTrace (e : TbEvent) : (s.emitTb e).tbTrace = s.tbTrace ++ [e] := rfl
@[simp] theorem State.emitTb_sched (e : TbEvent) : (s.emitTb e).sched = s.sched := rfl
@[simp] theorem State.emitTb_turnNo (e : TbEvent) : (s.emitTb e).turnNo = s.turnNo := rfl

/-! ### `consumeOffer` -/

@[simp] theorem State.consumeOffer_levels : (s.consumeOffer).levels = s.levels := rfl
@[simp] theorem State.consumeOffer_steps : (s.consumeOffer).steps = s.steps := rfl
@[simp] theorem State.consumeOffer_lock : (s.consumeOffer).lock = s.lock := rfl
@[simp] theorem State.consumeOffer_sph : (s.consumeOffer).sph = s.sph := rfl
@[simp] theorem State.consumeOffer_idx : (s.consumeOffer).idx = s.idx := rfl
@[simp] theorem State.consumeOffer_snap : (s.consumeOffer).snap = s.snap := rfl
@[simp] theorem State.consumeOffer_hph : (s.consumeOffer).hph = s.hph := rfl
@[simp] theorem State.consumeOffer_hkind : (s.consumeOffer).hkind = s.hkind := rfl
@[simp] theorem State.consumeOffer_hlv : (s.consumeOffer).hlv = s.hlv := rfl
@[simp] theorem State.consumeOffer_hbuf : (s.consumeOffer).hbuf = s.hbuf := rfl
@[simp] theorem State.consumeOffer_lastWord : (s.consumeOffer).lastWord = s.lastWord := rfl
@[simp] theorem State.consumeOffer_tbPend : (s.consumeOffer).tbPend = s.tbPend := rfl
@[simp] theorem State.consumeOffer_delayDone : (s.consumeOffer).delayDone = s.delayDone := rfl
@[simp] theorem State.consumeOffer_quantum : (s.consumeOffer).quantum = s.quantum := rfl
@[simp] theorem State.consumeOffer_inputs : (s.consumeOffer).inputs = { s.inputs with offer := none } := rfl
@[simp] theorem State.consumeOffer_tbPort : (s.consumeOffer).tbPort = s.tbPort := rfl
@[simp] theorem State.consumeOffer_hostTrace : (s.consumeOffer).hostTrace = s.hostTrace := rfl
@[simp] theorem State.consumeOffer_tbTrace : (s.consumeOffer).tbTrace = s.tbTrace := rfl
@[simp] theorem State.consumeOffer_sched : (s.consumeOffer).sched = s.sched := rfl
@[simp] theorem State.consumeOffer_turnNo : (s.consumeOffer).turnNo = s.turnNo := rfl

/-! ### `setHph` -/

@[simp] theorem State.setHph_levels (p : HPhase) : (s.setHph p).levels = s.levels := rfl
@[simp] theorem State.setHph_steps (p : HPhase) : (s.setHph p).steps = s.steps := rfl
@[simp] theorem State.setHph_lock (p : HPhase) : (s.setHph p).lock = s.lock := rfl
@[simp] theorem State.setHph_sph (p : HPhase) : (s.setHph p).sph = s.sph := rfl
@[simp] theorem State.setHph_idx (p : HPhase) : (s.setHph p).idx = s.idx := rfl
@[simp] theorem State.setHph_snap (p : HPhase) : (s.setHph p).snap = s.snap := rfl
@[simp] theorem State.setHph_hph (p : HPhase) : (s.setHph p).hph = p := rfl
@[simp] theorem State.setHph_hkind (p : HPhase) : (s.setHph p).hkind = s.hkind := rfl
@[simp] theorem State.setHph_hlv (p : HPhase) : (s.setHph p).hlv = s.hlv := rfl
@[simp] theorem State.setHph_hbuf (p : HPhase) : (s.setHph p).hbuf = s.hbuf := rfl
@[simp] theorem State.setHph_lastWord (p : HPhase) : (s.setHph p).lastWord = s.lastWord := rfl
@[simp] theorem State.setHph_tbPend (p : HPhase) : (s.setHph p).tbPend = s.tbPend := rfl
@[simp] theorem State.setHph_delayDone (p : HPhase) : (s.setHph p).delayDone = s.delayDone := rfl
@[simp] theorem State.setHph_quantum (p : HPhase) : (s.setHph p).quantum = s.quantum := rfl
@[simp] theorem State.setHph_inputs (p : HPhase) : (s.setHph p).inputs = s.inputs := rfl
@[simp] theorem State.setHph_tbPort (p : HPhase) : (s.setHph p).tbPort = s.tbPort := rfl
@[simp] theorem State.setHph_hostTrace (p : HPhase) : (s.setHph p).hostTrace = s.hostTrace := rfl
@[simp] theorem State.setHph_tbTrace (p : HPhase) : (s.setHph p).tbTrace = s.tbTrace := rfl
@[simp] theorem State.setHph_sched (p : HPhase) : (s.setHph p).sched = s.sched := rfl
@[simp] theorem State.setHph_turnNo (p : HPhase) : (s.setHph p).turnNo = s.turnNo := rfl

/-! ### `setSph` -/

@[simp] theorem State.setSph_levels (p : SPhase) : (s.setSph p).levels = s.levels := rfl
@[simp] theorem State.setSph_steps (p : SPhase) : (s.setSph p).steps = s.steps := rfl
@[simp] theorem State.setSph_lock (p : SPhase) : (s.setSph p).lock = s.lock := rfl
@[simp] theorem State.setSph_sph (p : SPhase) : (s.setSph p).sph = p := rfl
@[simp] theorem State.setSph_idx (p : SPhase) : (s.setSph p).idx = s.idx := rfl
@[simp] theorem State.setSph_snap (p : SPhase) : (s.setSph p).snap = s.snap := rfl
@[simp] theorem State.setSph_hph (p : SPhase) : (s.setSph p).hph = s.hph := rfl
@[simp] theorem State.setSph_hkind (p : SPhase) : (s.setSph p).hkind = s.hkind := rfl
@[simp] theorem State.setSph_hlv (p : SPhase) : (s.setSph p).hlv = s.hlv := rfl
@[simp] theorem State.setSph_hbuf (p : SPhase) : (s.setSph p).hbuf = s.hbuf := rfl
@[simp] theorem State.setSph_lastWord (p : SPhase) : (s.setSph p).lastWord = s.lastWord := rfl
@[simp] theorem State.setSph_tbPend (p : SPhase) : (s.setSph p).tbPend = s.tbPend := rfl
@[simp] theorem State.setSph_delayDone (p : SPhase) : (s.setSph p).delayDone = s.delayDone := rfl
@[simp] theorem State.setSph_quantum (p : SPhase) : (s.setSph p).quantum = s.quantum := rfl
@[simp] theorem State.setSph_inputs (p : SPhase) : (s.setSph p).inputs = s.inputs := rfl
@[simp] theorem State.setSph_tbPort (p : SPhase) : (s.setSph p).tbPort = s.tbPort := rfl
@[simp] theorem State.setSph_hostTrace (p : SPhase) : (s.setSph p).hostTrace = s.hostTrace := rfl
@[simp] theorem State.setSph_tbTrace (p : SPhase) : (s.setSph p).tbTrace = s.tbTrace := rfl
@[simp] theorem State.setSph_sched (p : SPhase) : (s.setSph p).sched = s.sched := rfl
@[simp] theorem State.setSph_turnNo (p : SPhase) : (s.setSph p).turnNo = s.turnNo := rfl

/-! ### `setIdx` -/

@[simp] theorem State.setIdx_levels (k : StepIndex) : (s.setIdx k).levels = s.levels := rfl
@[simp] theorem State.setIdx_steps (k : StepIndex) : (s.setIdx k).steps = s.steps := rfl
@[simp] theorem State.setIdx_lock (k : StepIndex) : (s.setIdx k).lock = s.lock := rfl
@[simp] theorem State.setIdx_sph (k : StepIndex) : (s.setIdx k).sph = s.sph := rfl
@[simp] theorem State.setIdx_idx (k : StepIndex) : (s.setIdx k).idx = k := rfl
@[simp] theorem State.setIdx_snap (k : StepIndex) : (s.setIdx k).snap = s.snap := rfl
@[simp] theorem State.setIdx_hph (k : StepIndex) : (s.setIdx k).hph = s.hph := rfl
@[simp] theorem State.setIdx_hkind (k : StepIndex) : (s.setIdx k).hkind = s.hkind := rfl
@[simp] theorem State.setIdx_hlv (k : StepIndex) : (s.setIdx k).hlv = s.hlv := rfl
@[simp] theorem State.setIdx_hbuf (k : StepIndex) : (s.setIdx k).hbuf = s.hbuf := rfl
@[simp] theorem State.setIdx_lastWord (k : StepIndex) : (s.setIdx k).lastWord = s.lastWord := rfl
@[simp] theorem State.setIdx_tbPend (k : StepIndex) : (s.setIdx k).tbPend = s.tbPend := rfl
@[simp] theorem State.setIdx_delayDone (k : StepIndex) : (s.setIdx k).delayDone = s.delayDone := rfl
@[simp] theorem State.setIdx_quantum (k : StepIndex) : (s.setIdx k).quantum = s.quantum := rfl
@[simp] theorem State.setIdx_inputs (k : StepIndex) : (s.setIdx k).inputs = s.inputs := rfl
@[simp] theorem State.setIdx_tbPort (k : StepIndex) : (s.setIdx k).tbPort = s.tbPort := rfl
@[simp] theorem State.setIdx_hostTrace (k : StepIndex) : (s.setIdx k).hostTrace = s.hostTrace := rfl
@[simp] theorem State.setIdx_tbTrace (k : StepIndex) : (s.setIdx k).tbTrace = s.tbTrace := rfl
@[simp] theorem State.setIdx_sched (k : StepIndex) : (s.setIdx k).sched = s.sched := rfl
@[simp] theorem State.setIdx_turnNo (k : StepIndex) : (s.setIdx k).turnNo = s.turnNo := rfl

/-! ### `setLock` -/

@[simp] theorem State.setLock_levels (l : Lock) : (s.setLock l).levels = s.levels := rfl
@[simp] theorem State.setLock_steps (l : Lock) : (s.setLock l).steps = s.steps := rfl
@[simp] theorem State.setLock_lock (l : Lock) : (s.setLock l).lock = l := rfl
@[simp] theorem State.setLock_sph (l : Lock) : (s.setLock l).sph = s.sph := rfl
@[simp] theorem State.setLock_idx (l : Lock) : (s.setLock l).idx = s.idx := rfl
@[simp] theorem State.setLock_snap (l : Lock) : (s.setLock l).snap = s.snap := rfl
@[simp] theorem State.setLock_hph (l : Lock) : (s.setLock l).hph = s.hph := rfl
@[simp] theorem State.setLock_hkind (l : Lock) : (s.setLock l).hkind = s.hkind := rfl
@[simp] theorem State.setLock_hlv (l : Lock) : (s.setLock l).hlv = s.hlv := rfl
@[simp] theorem State.setLock_hbuf (l : Lock) : (s.setLock l).hbuf = s.hbuf := rfl
@[simp] theorem State.setLock_lastWord (l : Lock) : (s.setLock l).lastWord = s.lastWord := rfl
@[simp] theorem State.setLock_tbPend (l : Lock) : (s.setLock l).tbPend = s.tbPend := rfl
@[simp] theorem State.setLock_delayDone (l : Lock) : (s.setLock l).delayDone = s.delayDone := rfl
@[simp] theorem State.setLock_quantum (l : Lock) : (s.setLock l).quantum = s.quantum := rfl
@[simp] theorem State.setLock_inputs (l : Lock) : (s.setLock l).inputs = s.inputs := rfl
@[simp] theorem State.setLock_tbPort (l : Lock) : (s.setLock l).tbPort = s.tbPort := rfl
@[simp] theorem State.setLock_hostTrace (l : Lock) : (s.setLock l).hostTrace = s.hostTrace := rfl
@[simp] theorem State.setLock_tbTrace (l : Lock) : (s.setLock l).tbTrace = s.tbTrace := rfl
@[simp] theorem State.setLock_sched (l : Lock) : (s.setLock l).sched = s.sched := rfl
@[simp] theorem State.setLock_turnNo (l : Lock) : (s.setLock l).turnNo = s.turnNo := rfl

/-! ### `setLevels` -/

@[simp] theorem State.setLevels_levels (l : Levels) : (s.setLevels l).levels = l := rfl
@[simp] theorem State.setLevels_steps (l : Levels) : (s.setLevels l).steps = s.steps := rfl
@[simp] theorem State.setLevels_lock (l : Levels) : (s.setLevels l).lock = s.lock := rfl
@[simp] theorem State.setLevels_sph (l : Levels) : (s.setLevels l).sph = s.sph := rfl
@[simp] theorem State.setLevels_idx (l : Levels) : (s.setLevels l).idx = s.idx := rfl
@[simp] theorem State.setLevels_snap (l : Levels) : (s.setLevels l).snap = s.snap := rfl
@[simp] theorem State.setLevels_hph (l : Levels) : (s.setLevels l).hph = s.hph := rfl
@[simp] theorem State.setLevels_hkind (l : Levels) : (s.setLevels l).hkind = s.hkind := rfl
@[simp] theorem State.setLevels_hlv (l : Levels) : (s.setLevels l).hlv = s.hlv := rfl
@[simp] theorem State.setLevels_hbuf (l : Levels) : (s.setLevels l).hbuf = s.hbuf := rfl
@[simp] theorem State.setLevels_lastWord (l : Levels) : (s.setLevels l).lastWord = s.lastWord := rfl
@[simp] theorem State.setLevels_tbPend (l : Levels) : (s.setLevels l).tbPend = s.tbPend := rfl
@[simp] theorem State.setLevels_delayDone (l : Levels) : (s.setLevels l).delayDone = s.delayDone := rfl
@[simp] theorem State.setLevels_quantum (l : Levels) : (s.setLevels l).quantum = s.quantum := rfl
@[simp] theorem State.setLevels_inputs (l : Levels) : (s.setLevels l).inputs = s.inputs := rfl
@[simp] theorem State.setLevels_tbPort (l : Levels) : (s.setLevels l).tbPort = s.tbPort := rfl
@[simp] theorem State.setLevels_hostTrace (l : Levels) : (s.setLevels l).hostTrace = s.hostTrace := rfl
@[simp] theorem State.setLevels_tbTrace (l : Levels) : (s.setLevels l).tbTrace = s.tbTrace := rfl
@[simp] theorem State.setLevels_sched (l : Levels) : (s.setLevels l).sched = s.sched := rfl
@[simp] theorem State.setLevels_turnNo (l : Levels) : (s.setLevels l).turnNo = s.turnNo := rfl

/-! ### `setSteps` -/

@[simp] theorem State.setSteps_levels (q : Sequence) : (s.setSteps q).levels = s.levels := rfl
@[simp] theorem State.setSteps_steps (q : Sequence) : (s.setSteps q).steps = q := rfl
@[simp] theorem State.setSteps_lock (q : Sequence) : (s.setSteps q).lock = s.lock := rfl
@[simp] theorem State.setSteps_sph (q : Sequence) : (s.setSteps q).sph = s.sph := rfl
@[simp] theorem State.setSteps_idx (q : Sequence) : (s.setSteps q).idx = s.idx := rfl
@[simp] theorem State.setSteps_snap (q : Sequence) : (s.setSteps q).snap = s.snap := rfl
@[simp] theorem State.setSteps_hph (q : Sequence) : (s.setSteps q).hph = s.hph := rfl
@[simp] theorem State.setSteps_hkind (q : Sequence) : (s.setSteps q).hkind = s.hkind := rfl
@[simp] theorem State.setSteps_hlv (q : Sequence) : (s.setSteps q).hlv = s.hlv := rfl
@[simp] theorem State.setSteps_hbuf (q : Sequence) : (s.setSteps q).hbuf = s.hbuf := rfl
@[simp] theorem State.setSteps_lastWord (q : Sequence) : (s.setSteps q).lastWord = s.lastWord := rfl
@[simp] theorem State.setSteps_tbPend (q : Sequence) : (s.setSteps q).tbPend = s.tbPend := rfl
@[simp] theorem State.setSteps_delayDone (q : Sequence) : (s.setSteps q).delayDone = s.delayDone := rfl
@[simp] theorem State.setSteps_quantum (q : Sequence) : (s.setSteps q).quantum = s.quantum := rfl
@[simp] theorem State.setSteps_inputs (q : Sequence) : (s.setSteps q).inputs = s.inputs := rfl
@[simp] theorem State.setSteps_tbPort (q : Sequence) : (s.setSteps q).tbPort = s.tbPort := rfl
@[simp] theorem State.setSteps_hostTrace (q : Sequence) : (s.setSteps q).hostTrace = s.hostTrace := rfl
@[simp] theorem State.setSteps_tbTrace (q : Sequence) : (s.setSteps q).tbTrace = s.tbTrace := rfl
@[simp] theorem State.setSteps_sched (q : Sequence) : (s.setSteps q).sched = s.sched := rfl
@[simp] theorem State.setSteps_turnNo (q : Sequence) : (s.setSteps q).turnNo = s.turnNo := rfl

/-! ### `setSnap` -/

@[simp] theorem State.setSnap_levels (q : Sequence) : (s.setSnap q).levels = s.levels := rfl
@[simp] theorem State.setSnap_steps (q : Sequence) : (s.setSnap q).steps = s.steps := rfl
@[simp] theorem State.setSnap_lock (q : Sequence) : (s.setSnap q).lock = s.lock := rfl
@[simp] theorem State.setSnap_sph (q : Sequence) : (s.setSnap q).sph = s.sph := rfl
@[simp] theorem State.setSnap_idx (q : Sequence) : (s.setSnap q).idx = s.idx := rfl
@[simp] theorem State.setSnap_snap (q : Sequence) : (s.setSnap q).snap = q := rfl
@[simp] theorem State.setSnap_hph (q : Sequence) : (s.setSnap q).hph = s.hph := rfl
@[simp] theorem State.setSnap_hkind (q : Sequence) : (s.setSnap q).hkind = s.hkind := rfl
@[simp] theorem State.setSnap_hlv (q : Sequence) : (s.setSnap q).hlv = s.hlv := rfl
@[simp] theorem State.setSnap_hbuf (q : Sequence) : (s.setSnap q).hbuf = s.hbuf := rfl
@[simp] theorem State.setSnap_lastWord (q : Sequence) : (s.setSnap q).lastWord = s.lastWord := rfl
@[simp] theorem State.setSnap_tbPend (q : Sequence) : (s.setSnap q).tbPend = s.tbPend := rfl
@[simp] theorem State.setSnap_delayDone (q : Sequence) : (s.setSnap q).delayDone = s.delayDone := rfl
@[simp] theorem State.setSnap_quantum (q : Sequence) : (s.setSnap q).quantum = s.quantum := rfl
@[simp] theorem State.setSnap_inputs (q : Sequence) : (s.setSnap q).inputs = s.inputs := rfl
@[simp] theorem State.setSnap_tbPort (q : Sequence) : (s.setSnap q).tbPort = s.tbPort := rfl
@[simp] theorem State.setSnap_hostTrace (q : Sequence) : (s.setSnap q).hostTrace = s.hostTrace := rfl
@[simp] theorem State.setSnap_tbTrace (q : Sequence) : (s.setSnap q).tbTrace = s.tbTrace := rfl
@[simp] theorem State.setSnap_sched (q : Sequence) : (s.setSnap q).sched = s.sched := rfl
@[simp] theorem State.setSnap_turnNo (q : Sequence) : (s.setSnap q).turnNo = s.turnNo := rfl

/-! ### `setHbuf` -/

@[simp] theorem State.setHbuf_levels (q : Sequence) : (s.setHbuf q).levels = s.levels := rfl
@[simp] theorem State.setHbuf_steps (q : Sequence) : (s.setHbuf q).steps = s.steps := rfl
@[simp] theorem State.setHbuf_lock (q : Sequence) : (s.setHbuf q).lock = s.lock := rfl
@[simp] theorem State.setHbuf_sph (q : Sequence) : (s.setHbuf q).sph = s.sph := rfl
@[simp] theorem State.setHbuf_idx (q : Sequence) : (s.setHbuf q).idx = s.idx := rfl
@[simp] theorem State.setHbuf_snap (q : Sequence) : (s.setHbuf q).snap = s.snap := rfl
@[simp] theorem State.setHbuf_hph (q : Sequence) : (s.setHbuf q).hph = s.hph := rfl
@[simp] theorem State.setHbuf_hkind (q : Sequence) : (s.setHbuf q).hkind = s.hkind := rfl
@[simp] theorem State.setHbuf_hlv (q : Sequence) : (s.setHbuf q).hlv = s.hlv := rfl
@[simp] theorem State.setHbuf_hbuf (q : Sequence) : (s.setHbuf q).hbuf = q := rfl
@[simp] theorem State.setHbuf_lastWord (q : Sequence) : (s.setHbuf q).lastWord = s.lastWord := rfl
@[simp] theorem State.setHbuf_tbPend (q : Sequence) : (s.setHbuf q).tbPend = s.tbPend := rfl
@[simp] theorem State.setHbuf_delayDone (q : Sequence) : (s.setHbuf q).delayDone = s.delayDone := rfl
@[simp] theorem State.setHbuf_quantum (q : Sequence) : (s.setHbuf q).quantum = s.quantum := rfl
@[simp] theorem State.setHbuf_inputs (q : Sequence) : (s.setHbuf q).inputs = s.inputs := rfl
@[simp] theorem State.setHbuf_tbPort (q : Sequence) : (s.setHbuf q).tbPort = s.tbPort := rfl
@[simp] theorem State.setHbuf_hostTrace (q : Sequence) : (s.setHbuf q).hostTrace = s.hostTrace := rfl
@[simp] theorem State.setHbuf_tbTrace (q : Sequence) : (s.setHbuf q).tbTrace = s.tbTrace := rfl
@[simp] theorem State.setHbuf_sched (q : Sequence) : (s.setHbuf q).sched = s.sched := rfl
@[simp] theorem State.setHbuf_turnNo (q : Sequence) : (s.setHbuf q).turnNo = s.turnNo := rfl

/-! ### `setHkind` -/

@[simp] theorem State.setHkind_levels (k : HKind) : (s.setHkind k).levels = s.levels := rfl
@[simp] theorem State.setHkind_steps (k : HKind) : (s.setHkind k).steps = s.steps := rfl
@[simp] theorem State.setHkind_lock (k : HKind) : (s.setHkind k).lock = s.lock := rfl
@[simp] theorem State.setHkind_sph (k : HKind) : (s.setHkind k).sph = s.sph := rfl
@[simp] theorem State.setHkind_idx (k : HKind) : (s.setHkind k).idx = s.idx := rfl
@[simp] theorem State.setHkind_snap (k : HKind) : (s.setHkind k).snap = s.snap := rfl
@[simp] theorem State.setHkind_hph (k : HKind) : (s.setHkind k).hph = s.hph := rfl
@[simp] theorem State.setHkind_hkind (k : HKind) : (s.setHkind k).hkind = k := rfl
@[simp] theorem State.setHkind_hlv (k : HKind) : (s.setHkind k).hlv = s.hlv := rfl
@[simp] theorem State.setHkind_hbuf (k : HKind) : (s.setHkind k).hbuf = s.hbuf := rfl
@[simp] theorem State.setHkind_lastWord (k : HKind) : (s.setHkind k).lastWord = s.lastWord := rfl
@[simp] theorem State.setHkind_tbPend (k : HKind) : (s.setHkind k).tbPend = s.tbPend := rfl
@[simp] theorem State.setHkind_delayDone (k : HKind) : (s.setHkind k).delayDone = s.delayDone := rfl
@[simp] theorem State.setHkind_quantum (k : HKind) : (s.setHkind k).quantum = s.quantum := rfl
@[simp] theorem State.setHkind_inputs (k : HKind) : (s.setHkind k).inputs = s.inputs := rfl
@[simp] theorem State.setHkind_tbPort (k : HKind) : (s.setHkind k).tbPort = s.tbPort := rfl
@[simp] theorem State.setHkind_hostTrace (k : HKind) : (s.setHkind k).hostTrace = s.hostTrace := rfl
@[simp] theorem State.setHkind_tbTrace (k : HKind) : (s.setHkind k).tbTrace = s.tbTrace := rfl
@[simp] theorem State.setHkind_sched (k : HKind) : (s.setHkind k).sched = s.sched := rfl
@[simp] theorem State.setHkind_turnNo (k : HKind) : (s.setHkind k).turnNo = s.turnNo := rfl

/-! ### `setHlv` -/

@[simp] theorem State.setHlv_levels (l : Levels) : (s.setHlv l).levels = s.levels := rfl
@[simp] theorem State.setHlv_steps (l : Levels) : (s.setHlv l).steps = s.steps := rfl
@[simp] theorem State.setHlv_lock (l : Levels) : (s.setHlv l).lock = s.lock := rfl
@[simp] theorem State.setHlv_sph (l : Levels) : (s.setHlv l).sph = s.sph := rfl
@[simp] theorem State.setHlv_idx (l : Levels) : (s.setHlv l).idx = s.idx := rfl
@[simp] theorem State.setHlv_snap (l : Levels) : (s.setHlv l).snap = s.snap := rfl
@[simp] theorem State.setHlv_hph (l : Levels) : (s.setHlv l).hph = s.hph := rfl
@[simp] theorem State.setHlv_hkind (l : Levels) : (s.setHlv l).hkind = s.hkind := rfl
@[simp] theorem State.setHlv_hlv (l : Levels) : (s.setHlv l).hlv = l := rfl
@[simp] theorem State.setHlv_hbuf (l : Levels) : (s.setHlv l).hbuf = s.hbuf := rfl
@[simp] theorem State.setHlv_lastWord (l : Levels) : (s.setHlv l).lastWord = s.lastWord := rfl
@[simp] theorem State.setHlv_tbPend (l : Levels) : (s.setHlv l).tbPend = s.tbPend := rfl
@[simp] theorem State.setHlv_delayDone (l : Levels) : (s.setHlv l).delayDone = s.delayDone := rfl
@[simp] theorem State.setHlv_quantum (l : Levels) : (s.setHlv l).quantum = s.quantum := rfl
@[simp] theorem State.setHlv_inputs (l : Levels) : (s.setHlv l).inputs = s.inputs := rfl
@[simp] theorem State.setHlv_tbPort (l : Levels) : (s.setHlv l).tbPort = s.tbPort := rfl
@[simp] theorem State.setHlv_hostTrace (l : Levels) : (s.setHlv l).hostTrace = s.hostTrace := rfl
@[simp] theorem State.setHlv_tbTrace (l : Levels) : (s.setHlv l).tbTrace = s.tbTrace := rfl
@[simp] theorem State.setHlv_sched (l : Levels) : (s.setHlv l).sched = s.sched := rfl
@[simp] theorem State.setHlv_turnNo (l : Levels) : (s.setHlv l).turnNo = s.turnNo := rfl

/-! ### `setLastWord` -/

@[simp] theorem State.setLastWord_levels (w : TbsWord) : (s.setLastWord w).levels = s.levels := rfl
@[simp] theorem State.setLastWord_steps (w : TbsWord) : (s.setLastWord w).steps = s.steps := rfl
@[simp] theorem State.setLastWord_lock (w : TbsWord) : (s.setLastWord w).lock = s.lock := rfl
@[simp] theorem State.setLastWord_sph (w : TbsWord) : (s.setLastWord w).sph = s.sph := rfl
@[simp] theorem State.setLastWord_idx (w : TbsWord) : (s.setLastWord w).idx = s.idx := rfl
@[simp] theorem State.setLastWord_snap (w : TbsWord) : (s.setLastWord w).snap = s.snap := rfl
@[simp] theorem State.setLastWord_hph (w : TbsWord) : (s.setLastWord w).hph = s.hph := rfl
@[simp] theorem State.setLastWord_hkind (w : TbsWord) : (s.setLastWord w).hkind = s.hkind := rfl
@[simp] theorem State.setLastWord_hlv (w : TbsWord) : (s.setLastWord w).hlv = s.hlv := rfl
@[simp] theorem State.setLastWord_hbuf (w : TbsWord) : (s.setLastWord w).hbuf = s.hbuf := rfl
@[simp] theorem State.setLastWord_lastWord (w : TbsWord) : (s.setLastWord w).lastWord = some w := rfl
@[simp] theorem State.setLastWord_tbPend (w : TbsWord) : (s.setLastWord w).tbPend = s.tbPend := rfl
@[simp] theorem State.setLastWord_delayDone (w : TbsWord) : (s.setLastWord w).delayDone = s.delayDone := rfl
@[simp] theorem State.setLastWord_quantum (w : TbsWord) : (s.setLastWord w).quantum = s.quantum := rfl
@[simp] theorem State.setLastWord_inputs (w : TbsWord) : (s.setLastWord w).inputs = s.inputs := rfl
@[simp] theorem State.setLastWord_tbPort (w : TbsWord) : (s.setLastWord w).tbPort = s.tbPort := rfl
@[simp] theorem State.setLastWord_hostTrace (w : TbsWord) : (s.setLastWord w).hostTrace = s.hostTrace := rfl
@[simp] theorem State.setLastWord_tbTrace (w : TbsWord) : (s.setLastWord w).tbTrace = s.tbTrace := rfl
@[simp] theorem State.setLastWord_sched (w : TbsWord) : (s.setLastWord w).sched = s.sched := rfl
@[simp] theorem State.setLastWord_turnNo (w : TbsWord) : (s.setLastWord w).turnNo = s.turnNo := rfl

/-! ### `setTbPend` -/

@[simp] theorem State.setTbPend_levels (n : Option TbdWord) : (s.setTbPend n).levels = s.levels := rfl
@[simp] theorem State.setTbPend_steps (n : Option TbdWord) : (s.setTbPend n).steps = s.steps := rfl
@[simp] theorem State.setTbPend_lock (n : Option TbdWord) : (s.setTbPend n).lock = s.lock := rfl
@[simp] theorem State.setTbPend_sph (n : Option TbdWord) : (s.setTbPend n).sph = s.sph := rfl
@[simp] theorem State.setTbPend_idx (n : Option TbdWord) : (s.setTbPend n).idx = s.idx := rfl
@[simp] theorem State.setTbPend_snap (n : Option TbdWord) : (s.setTbPend n).snap = s.snap := rfl
@[simp] theorem State.setTbPend_hph (n : Option TbdWord) : (s.setTbPend n).hph = s.hph := rfl
@[simp] theorem State.setTbPend_hkind (n : Option TbdWord) : (s.setTbPend n).hkind = s.hkind := rfl
@[simp] theorem State.setTbPend_hlv (n : Option TbdWord) : (s.setTbPend n).hlv = s.hlv := rfl
@[simp] theorem State.setTbPend_hbuf (n : Option TbdWord) : (s.setTbPend n).hbuf = s.hbuf := rfl
@[simp] theorem State.setTbPend_lastWord (n : Option TbdWord) : (s.setTbPend n).lastWord = s.lastWord := rfl
@[simp] theorem State.setTbPend_tbPend (n : Option TbdWord) : (s.setTbPend n).tbPend = n := rfl
@[simp] theorem State.setTbPend_delayDone (n : Option TbdWord) : (s.setTbPend n).delayDone = s.delayDone := rfl
@[simp] theorem State.setTbPend_quantum (n : Option TbdWord) : (s.setTbPend n).quantum = s.quantum := rfl
@[simp] theorem State.setTbPend_inputs (n : Option TbdWord) : (s.setTbPend n).inputs = s.inputs := rfl
@[simp] theorem State.setTbPend_tbPort (n : Option TbdWord) : (s.setTbPend n).tbPort = s.tbPort := rfl
@[simp] theorem State.setTbPend_hostTrace (n : Option TbdWord) : (s.setTbPend n).hostTrace = s.hostTrace := rfl
@[simp] theorem State.setTbPend_tbTrace (n : Option TbdWord) : (s.setTbPend n).tbTrace = s.tbTrace := rfl
@[simp] theorem State.setTbPend_sched (n : Option TbdWord) : (s.setTbPend n).sched = s.sched := rfl
@[simp] theorem State.setTbPend_turnNo (n : Option TbdWord) : (s.setTbPend n).turnNo = s.turnNo := rfl

/-! ### `setDelayDone` -/

@[simp] theorem State.setDelayDone_levels (d : Bool) : (s.setDelayDone d).levels = s.levels := rfl
@[simp] theorem State.setDelayDone_steps (d : Bool) : (s.setDelayDone d).steps = s.steps := rfl
@[simp] theorem State.setDelayDone_lock (d : Bool) : (s.setDelayDone d).lock = s.lock := rfl
@[simp] theorem State.setDelayDone_sph (d : Bool) : (s.setDelayDone d).sph = s.sph := rfl
@[simp] theorem State.setDelayDone_idx (d : Bool) : (s.setDelayDone d).idx = s.idx := rfl
@[simp] theorem State.setDelayDone_snap (d : Bool) : (s.setDelayDone d).snap = s.snap := rfl
@[simp] theorem State.setDelayDone_hph (d : Bool) : (s.setDelayDone d).hph = s.hph := rfl
@[simp] theorem State.setDelayDone_hkind (d : Bool) : (s.setDelayDone d).hkind = s.hkind := rfl
@[simp] theorem State.setDelayDone_hlv (d : Bool) : (s.setDelayDone d).hlv = s.hlv := rfl
@[simp] theorem State.setDelayDone_hbuf (d : Bool) : (s.setDelayDone d).hbuf = s.hbuf := rfl
@[simp] theorem State.setDelayDone_lastWord (d : Bool) : (s.setDelayDone d).lastWord = s.lastWord := rfl
@[simp] theorem State.setDelayDone_tbPend (d : Bool) : (s.setDelayDone d).tbPend = s.tbPend := rfl
@[simp] theorem State.setDelayDone_delayDone (d : Bool) : (s.setDelayDone d).delayDone = d := rfl
@[simp] theorem State.setDelayDone_quantum (d : Bool) : (s.setDelayDone d).quantum = s.quantum := rfl
@[simp] theorem State.setDelayDone_inputs (d : Bool) : (s.setDelayDone d).inputs = s.inputs := rfl
@[simp] theorem State.setDelayDone_tbPort (d : Bool) : (s.setDelayDone d).tbPort = s.tbPort := rfl
@[simp] theorem State.setDelayDone_hostTrace (d : Bool) : (s.setDelayDone d).hostTrace = s.hostTrace := rfl
@[simp] theorem State.setDelayDone_tbTrace (d : Bool) : (s.setDelayDone d).tbTrace = s.tbTrace := rfl
@[simp] theorem State.setDelayDone_sched (d : Bool) : (s.setDelayDone d).sched = s.sched := rfl
@[simp] theorem State.setDelayDone_turnNo (d : Bool) : (s.setDelayDone d).turnNo = s.turnNo := rfl

/-! ### `setTbPort` -/

@[simp] theorem State.setTbPort_levels (r : Option TbRequest) : (s.setTbPort r).levels = s.levels := rfl
@[simp] theorem State.setTbPort_steps (r : Option TbRequest) : (s.setTbPort r).steps = s.steps := rfl
@[simp] theorem State.setTbPort_lock (r : Option TbRequest) : (s.setTbPort r).lock = s.lock := rfl
@[simp] theorem State.setTbPort_sph (r : Option TbRequest) : (s.setTbPort r).sph = s.sph := rfl
@[simp] theorem State.setTbPort_idx (r : Option TbRequest) : (s.setTbPort r).idx = s.idx := rfl
@[simp] theorem State.setTbPort_snap (r : Option TbRequest) : (s.setTbPort r).snap = s.snap := rfl
@[simp] theorem State.setTbPort_hph (r : Option TbRequest) : (s.setTbPort r).hph = s.hph := rfl
@[simp] theorem State.setTbPort_hkind (r : Option TbRequest) : (s.setTbPort r).hkind = s.hkind := rfl
@[simp] theorem State.setTbPort_hlv (r : Option TbRequest) : (s.setTbPort r).hlv = s.hlv := rfl
@[simp] theorem State.setTbPort_hbuf (r : Option TbRequest) : (s.setTbPort r).hbuf = s.hbuf := rfl
@[simp] theorem State.setTbPort_lastWord (r : Option TbRequest) : (s.setTbPort r).lastWord = s.lastWord := rfl
@[simp] theorem State.setTbPort_tbPend (r : Option TbRequest) : (s.setTbPort r).tbPend = s.tbPend := rfl
@[simp] theorem State.setTbPort_delayDone (r : Option TbRequest) : (s.setTbPort r).delayDone = s.delayDone := rfl
@[simp] theorem State.setTbPort_quantum (r : Option TbRequest) : (s.setTbPort r).quantum = s.quantum := rfl
@[simp] theorem State.setTbPort_inputs (r : Option TbRequest) : (s.setTbPort r).inputs = s.inputs := rfl
@[simp] theorem State.setTbPort_tbPort (r : Option TbRequest) : (s.setTbPort r).tbPort = r := rfl
@[simp] theorem State.setTbPort_hostTrace (r : Option TbRequest) : (s.setTbPort r).hostTrace = s.hostTrace := rfl
@[simp] theorem State.setTbPort_tbTrace (r : Option TbRequest) : (s.setTbPort r).tbTrace = s.tbTrace := rfl
@[simp] theorem State.setTbPort_sched (r : Option TbRequest) : (s.setTbPort r).sched = s.sched := rfl
@[simp] theorem State.setTbPort_turnNo (r : Option TbRequest) : (s.setTbPort r).turnNo = s.turnNo := rfl

/-! ### `beginTurn` -/

@[simp] theorem State.beginTurn_levels (i : Inputs) (r : List Turn) : (s.beginTurn i r).levels = s.levels := rfl
@[simp] theorem State.beginTurn_steps (i : Inputs) (r : List Turn) : (s.beginTurn i r).steps = s.steps := rfl
@[simp] theorem State.beginTurn_lock (i : Inputs) (r : List Turn) : (s.beginTurn i r).lock = s.lock := rfl
@[simp] theorem State.beginTurn_sph (i : Inputs) (r : List Turn) : (s.beginTurn i r).sph = s.sph := rfl
@[simp] theorem State.beginTurn_idx (i : Inputs) (r : List Turn) : (s.beginTurn i r).idx = s.idx := rfl
@[simp] theorem State.beginTurn_snap (i : Inputs) (r : List Turn) : (s.beginTurn i r).snap = s.snap := rfl
@[simp] theorem State.beginTurn_hph (i : Inputs) (r : List Turn) : (s.beginTurn i r).hph = s.hph := rfl
@[simp] theorem State.beginTurn_hkind (i : Inputs) (r : List Turn) : (s.beginTurn i r).hkind = s.hkind := rfl
@[simp] theorem State.beginTurn_hlv (i : Inputs) (r : List Turn) : (s.beginTurn i r).hlv = s.hlv := rfl
@[simp] theorem State.beginTurn_hbuf (i : Inputs) (r : List Turn) : (s.beginTurn i r).hbuf = s.hbuf := rfl
@[simp] theorem State.beginTurn_lastWord (i : Inputs) (r : List Turn) : (s.beginTurn i r).lastWord = s.lastWord := rfl
@[simp] theorem State.beginTurn_tbPend (i : Inputs) (r : List Turn) : (s.beginTurn i r).tbPend = s.tbPend := rfl
@[simp] theorem State.beginTurn_delayDone (i : Inputs) (r : List Turn) : (s.beginTurn i r).delayDone = s.delayDone := rfl
@[simp] theorem State.beginTurn_quantum (i : Inputs) (r : List Turn) : (s.beginTurn i r).quantum = s.quantum := rfl
@[simp] theorem State.beginTurn_inputs (i : Inputs) (r : List Turn) : (s.beginTurn i r).inputs = i := rfl
@[simp] theorem State.beginTurn_tbPort (i : Inputs) (r : List Turn) : (s.beginTurn i r).tbPort = s.tbPort := rfl
@[simp] theorem State.beginTurn_hostTrace (i : Inputs) (r : List Turn) : (s.beginTurn i r).hostTrace = s.hostTrace := rfl
@[simp] theorem State.beginTurn_tbTrace (i : Inputs) (r : List Turn) : (s.beginTurn i r).tbTrace = s.tbTrace := rfl
@[simp] theorem State.beginTurn_sched (i : Inputs) (r : List Turn) : (s.beginTurn i r).sched = r := rfl
@[simp] theorem State.beginTurn_turnNo (i : Inputs) (r : List Turn) : (s.beginTurn i r).turnNo = s.turnNo + 1 := rfl

/-! ### `schedule` -/

@[simp] theorem State.schedule_levels (t : Turn) : (s.schedule t).levels = s.levels := rfl
@[simp] theorem State.schedule_steps (t : Turn) : (s.schedule t).steps = s.steps := rfl
@[simp] theorem State.schedule_lock (t : Turn) : (s.schedule t).lock = s.lock := rfl
@[simp] theorem State.schedule_sph (t : Turn) : (s.schedule t).sph = s.sph := rfl
@[simp] theorem State.schedule_idx (t : Turn) : (s.schedule t).idx = s.idx := rfl
@[simp] theorem State.schedule_snap (t : Turn) : (s.schedule t).snap = s.snap := rfl
@[simp] theorem State.schedule_hph (t : Turn) : (s.schedule t).hph = s.hph := rfl
@[simp] theorem State.schedule_hkind (t : Turn) : (s.schedule t).hkind = s.hkind := rfl
@[simp] theorem State.schedule_hlv (t : Turn) : (s.schedule t).hlv = s.hlv := rfl
@[simp] theorem State.schedule_hbuf (t : Turn) : (s.schedule t).hbuf = s.hbuf := rfl
@[simp] theorem State.schedule_lastWord (t : Turn) : (s.schedule t).lastWord = s.lastWord := rfl
@[simp] theorem State.schedule_tbPend (t : Turn) : (s.schedule t).tbPend = s.tbPend := rfl
@[simp] theorem State.schedule_delayDone (t : Turn) : (s.schedule t).delayDone = s.delayDone := rfl
@[simp] theorem State.schedule_quantum (t : Turn) : (s.schedule t).quantum = s.quantum := rfl
@[simp] theorem State.schedule_inputs (t : Turn) : (s.schedule t).inputs = s.inputs := rfl
@[simp] theorem State.schedule_tbPort (t : Turn) : (s.schedule t).tbPort = s.tbPort := rfl
@[simp] theorem State.schedule_hostTrace (t : Turn) : (s.schedule t).hostTrace = s.hostTrace := rfl
@[simp] theorem State.schedule_tbTrace (t : Turn) : (s.schedule t).tbTrace = s.tbTrace := rfl
@[simp] theorem State.schedule_sched (t : Turn) : (s.schedule t).sched = t :: s.sched := rfl
@[simp] theorem State.schedule_turnNo (t : Turn) : (s.schedule t).turnNo = s.turnNo := rfl

end Sys2Proof.Machine
end

