-- ==== Sys2Proof/Laws/Ops.lean ====
section
/-! SUPPORT. One lemma for each shared operation that says everything it can do; the packaged inductions over the operations that run several
micro-steps; and the one inversion lemma of a step: what a turn does is a chain of micro-steps. -/

namespace Sys2Proof.Machine

/-! ## Lock -/

theorem acquire_eq_some {who : Lock} {s s' : State} :
    s.acquire who = some s' ↔ s.lock = .free ∧ s' = s.setLock who := by
  unfold State.acquire State.lockFree
  cases hl : s.lock <;> simp
  exact eq_comm

/-! ## Host engine -/

theorem acceptCommand_eq_some {w : HcWord} {latch : State → State} {s s' : State} :
    acceptCommand w latch s = some s' ↔ s.hph = .idle ∧ s' = latch (s.consumeOffer.emitHost (.cmd w)) := by
  unfold acceptCommand
  cases hp : s.hph <;> simp [eq_comm]

theorem hAcq_eq_some {s s' : State} :
    hAcq s = some s' ↔
      s.lock = .free ∧ s' = (s.setLock .host).setHph (if s.hkind = .upd then .write else .copy) := by
  unfold hAcq
  constructor
  · split <;> rename_i hk <;> intro h <;> obtain ⟨a, ha, rfl⟩ := Option.map_eq_some_iff.mp h <;>
      obtain ⟨hl, rfl⟩ := acquire_eq_some.mp ha <;> simp [hl, hk]
  · rintro ⟨hl, rfl⟩
    split <;> simp_all [State.acquire, State.lockFree]

/-- The host engine's continuing micro-steps, one disjunct each (R142 to R147). -/
theorem hostContinue_cases {s s' : State} (h : hostContinue s = some s') :
    (s.hph = .acq ∧ s.lock = .free ∧ s' = (s.setLock .host).setHph (if s.hkind = .upd then .write else .copy)) ∨
    (s.hph = .write ∧ s' = (s.setLevels s.hlv).setHph .reflect) ∨
    (s.hph = .reflect ∧ s' = (s.setSteps (reflect s.levels)).setHph .rel) ∨
    (s.hph = .copy ∧ s' = (s.setHbuf s.steps).setHph .rel) ∨
    (s.hph = .rel ∧ s' = (s.setLock .free).setHph .rsp) ∨
    (s.hph = .rsp ∧ s.inputs.hostReady = true ∧ s' = (s.emitHost (.rsp (responseWord s))).setHph .idle) := by
  unfold hostContinue at h
  split at h <;> rename_i hp
  · cases h
  · exact .inl ⟨hp, hAcq_eq_some.mp h⟩
  · cases h; exact .inr (.inl ⟨hp, rfl⟩)
  · cases h; exact .inr (.inr (.inl ⟨hp, rfl⟩))
  · cases h; exact .inr (.inr (.inr (.inl ⟨hp, rfl⟩)))
  · cases h; exact .inr (.inr (.inr (.inr (.inl ⟨hp, rfl⟩))))
  · unfold hRsp at h
    split at h <;> rename_i hr
    · cases h; exact .inr (.inr (.inr (.inr (.inr ⟨hp, hr, rfl⟩))))
    · cases h

/-- What holds before `finishCommand` and is kept by every continuing micro-step holds after it. -/
theorem finishCommand_keeps {P : State → Prop} (keep : ∀ s s', hostContinue s = some s' → P s → P s') :
    ∀ n s, P s → P (finishCommand n s)
  | 0, _, hs => hs
  | n + 1, s, hs => by
    unfold finishCommand
    split
    · rename_i s' h; exact finishCommand_keeps keep n s' (keep s s' h hs)
    · exact hs

/-- `giveResponse` is H.RSP where its response is the one offered, and nothing elsewhere. -/
theorem giveResponse_cases (b : Bool) (s : State) :
    giveResponse b s = s ∨
      s.hph = .rsp ∧ b = true ∧ s.inputs.hostReady = true ∧
        giveResponse b s = (s.emitHost (.rsp (responseWord s))).setHph .idle := by
  unfold giveResponse hRsp
  split <;> try exact .inl rfl
  rename_i hp
  cases b <;> cases hr : s.inputs.hostReady <;> simp [hp]

/-! ## Streamer and boundary -/

theorem giveDelayDone_eq_some {s s' : State} :
    giveDelayDone s = some s' ↔ (∃ n, s.tbPend = some n) ∧ s' = (s.setTbPend none).setDelayDone true := by
  unfold giveDelayDone
  split <;> simp_all [eq_comm]

/-- The streamer's micro-steps, one disjunct each (R111 to R117). -/
theorem strmMicro_cases {s s' : State} (h : strmMicro s = some s') :
    (s.sph = .acq ∧ s.lock = .free ∧ s' = (s.setLock .strm).setSph .copy) ∨
    (s.sph = .copy ∧ s' = (s.setSnap s.steps).setSph .rel) ∨
    (s.sph = .rel ∧ s' = (s.setLock .free).setSph .step) ∨
    (s.sph = .step ∧ s.durZero = true ∧ s' = s.advance) ∨
    (s.sph = .step ∧ s.durZero = false ∧ s.inputs.tbReady = true ∧
      s' = (takeSend (sendOperand s) s).setSph .dly) ∨
    (s.sph = .dly ∧ s' = (takeDelay (delayOperand s) s).setSph .wait) ∨
    (s.sph = .wait ∧ s.delayDone = true ∧ s' = ((s.setDelayDone false).emitTb .delayDone).advance) := by
  unfold strmMicro at h
  split at h <;> rename_i hp
  · obtain ⟨a, ha, rfl⟩ := Option.map_eq_some_iff.mp h
    obtain ⟨hl, rfl⟩ := acquire_eq_some.mp ha
    exact .inl ⟨hp, hl, rfl⟩
  · cases h; exact .inr (.inl ⟨hp, rfl⟩)
  · cases h; exact .inr (.inr (.inl ⟨hp, rfl⟩))
  · split at h <;> rename_i hd
    · simp only [sSkip, hd, if_true, Option.some.injEq] at h
      exact .inr (.inr (.inr (.inl ⟨hp, hd, h.symm⟩)))
    · simp only [sSend, hd] at h
      split at h <;> rename_i hr
      · simp at hr
      · split at h <;> rename_i hr
        · cases h
          exact .inr (.inr (.inr (.inr (.inl ⟨hp, by simpa using hd, hr, rfl⟩))))
        · cases h
  · cases h; exact .inr (.inr (.inr (.inr (.inr (.inl ⟨hp, rfl⟩)))))
  · unfold sResume at h
    split at h <;> rename_i hd
    · cases h; exact .inr (.inr (.inr (.inr (.inr (.inr ⟨hp, hd, rfl⟩)))))
    · cases h

/-- What holds before `runSnapshot` and is kept by every streamer micro-step holds after it. -/
theorem runSnapshot_keeps {P : State → Prop} (keep : ∀ s s', strmMicro s = some s' → P s → P s') :
    ∀ n s, P s → P (runSnapshot n s)
  | 0, _, hs => hs
  | n + 1, s, hs => by
    unfold runSnapshot
    split <;> try exact hs
    all_goals
      split
      · rename_i s' h; exact runSnapshot_keeps keep n s' (keep s s' h hs)
      · exact hs

theorem delayDoneNow_keeps {P : State → Prop} (give : ∀ s s', giveDelayDone s = some s' → P s → P s')
    {s : State} (hs : P s) : P (delayDoneNow s) := by
  unfold delayDoneNow
  split
  · cases h : giveDelayDone s with
    | none => exact hs
    | some s' => exact give s s' h hs
  · exact hs

theorem delayDoneNow_sph (s : State) : (delayDoneNow s).sph = s.sph := by
  unfold delayDoneNow giveDelayDone
  split <;> [(split <;> rfl); rfl]

/-- What holds before `finishEmit` and is kept by every micro-step of the streamer and the boundary holds after it. -/
theorem finishEmit_keeps {P : State → Prop} (keep : ∀ s s', strmMicro s = some s' → P s → P s')
    (give : ∀ s s', giveDelayDone s = some s' → P s → P s') {s : State} (hs : P s) : P (finishEmit s) := by
  have resume : ∀ t : State, t.sph = .wait → P t → P ((sResume t).getD t) := by
    intro t ht hP
    cases h : sResume t with
    | none => exact hP
    | some t' => exact keep t t' (by simp [strmMicro, ht, h]) hP
  unfold finishEmit
  split <;> rename_i hp <;> try exact hs
  · have h1 : P ((takeDelay (delayOperand s) s).setSph .wait) := keep s _ (by simp [strmMicro, hp, sDly]) hs
    exact resume _ (by simp [delayDoneNow_sph, sDly]) (delayDoneNow_keeps give h1)
  · exact resume _ (by simp [delayDoneNow_sph, hp]) (delayDoneNow_keeps give hs)

theorem runEmit_keeps {P : State → Prop} (keep : ∀ s s', strmMicro s = some s' → P s → P s')
    (give : ∀ s s', giveDelayDone s = some s' → P s → P s') {s : State} (hp : s.sph = .step) (hs : P s) :
    P (runEmit s) := by
  unfold runEmit
  split
  · rename_i s' h
    have hd : s.durZero = false := by
      by_contra hc
      simp [sSend, hc] at h
    exact finishEmit_keeps keep give (keep s s' (by simp [strmMicro, hp, hd, h]) hs)
  · exact hs

end Sys2Proof.Machine
end

