-- ==== Sys2Proof/Laws/PerInstr.lean ====
section
/-! SUPPORT. Statements about every instruction as syntax, one lemma per constructor. Family `EncodeLength`: an instruction's word takes exactly the
bytes of its format (R73: each format has one fixed length). -/

namespace Sys2Proof.Laws.EncodeLength

/-- The word of `i` has the length of its format. -/
def Statement (i : Instr) : Prop := (encode i).length = (i.format.width + 7) / 8

theorem updateLevels (levels : Levels) : Statement (.updateLevels levels) := bytesOfWord_length _ _
theorem readSnapshot : Statement .readSnapshot := bytesOfWord_length _ _
theorem illegalOp00 (arg : LvWord) : Statement (.illegalOp00 arg) := bytesOfWord_length _ _
theorem illegalOp11 (arg : LvWord) : Statement (.illegalOp11 arg) := bytesOfWord_length _ _
theorem illegalRdArg (arg : LvWord) : Statement (.illegalRdArg arg) := bytesOfWord_length _ _
theorem ack : Statement .ack := bytesOfWord_length _ _
theorem data (steps : Sequence) : Statement (.data steps) := bytesOfWord_length _ _
theorem err : Statement .err := bytesOfWord_length _ _
theorem skip (mask : Mask) : Statement (.skip mask) := bytesOfWord_length _ _
theorem emit (mask : Mask) (dur : Duration) : Statement (.emit mask dur) := bytesOfWord_length _ _
theorem send (word : TbsWord) : Statement (.send word) := bytesOfWord_length _ _
theorem delay (count : TbdWord) : Statement (.delay count) := bytesOfWord_length _ _

end Sys2Proof.Laws.EncodeLength
end

