-- ==== Sys2Proof/Laws/Reflect.lean ====
section
/-! SUPPORT. The sort and the loop of `REFLECT`: the order is a permutation of the channels, ascending in level, and the loop unfolds one
Step at a time. -/

namespace Sys2Proof.Machine

@[simp] theorem channels_eq_finRange : channels = List.finRange 8 := by decide

theorem sortChannels_perm (l : Levels) : (sortChannels l).Perm channels := List.perm_insertionSort _ _

@[simp] theorem sortChannels_length (l : Levels) : (sortChannels l).length = 8 :=
  (sortChannels_perm l).length_eq

theorem sortChannels_nodup (l : Levels) : (sortChannels l).Nodup :=
  (sortChannels_perm l).nodup_iff.mpr (by decide)

theorem mem_sortChannels (l : Levels) (c : Channel) : c ∈ sortChannels l :=
  (sortChannels_perm l).mem_iff.mpr (by simp)

/-- The keys of different channels differ (R91). -/
theorem sortKey_injective (l : Levels) : Function.Injective (sortKey l) := by
  intro a b h
  unfold sortKey at h
  have ha := a.isLt
  have hb := b.isLt
  apply Fin.ext
  omega

theorem sortKey_le_imp_level_le {l : Levels} {a b : Channel} (h : sortKey l a ≤ sortKey l b) : l[a] ≤ l[b] := by
  unfold sortKey at h
  have hb := b.isLt
  show l[a].toNat ≤ l[b].toNat
  omega

theorem sortChannels_sorted (l : Levels) :
    (sortChannels l).Pairwise fun a b => sortKey l a ≤ sortKey l b := by
  have : Std.Total (fun a b : Channel => sortKey l a ≤ sortKey l b) := ⟨fun a b => Nat.le_total _ _⟩
  have : IsTrans Channel (fun a b : Channel => sortKey l a ≤ sortKey l b) := ⟨fun a b c => Nat.le_trans⟩
  exact List.pairwise_insertionSort _ _

@[simp] theorem clearChannel_getLsbD (m : Mask) (c : Channel) (i : Nat) :
    (clearChannel m c).getLsbD i = (m.getLsbD i && decide (i ≠ c.val)) := by
  have hc := c.isLt
  by_cases hi : i < 32
  · by_cases h : i = c.val
    · subst h; simp [clearChannel, hi]
    · have : ¬ i < c.val → i - c.val ≠ 0 := by omega
      simp [clearChannel, hi, h]
      intro _
      by_cases hlt : i < c.val
      · exact .inl hlt
      · exact .inr (by omega)
  · simp [BitVec.getLsbD_of_ge _ _ (Nat.le_of_not_lt hi)]

/-- The nine Steps as a list. -/
@[simp] theorem reflect_toList (l : Levels) : (reflect l).toList = reflectSteps l := by
  simp [reflect, Vector.toList]

end Sys2Proof.Machine
end

