-- ==== Sys2Proof/Laws/Step.lean ====
section
/-! SUPPORT. The inversion lemma of a step: whatever its grain, a turn of an agent is a chain of micro-steps of that agent (and, inside a
whole `EMIT`, of the boundary's completion). Invariants and frames are derived from this and need not unfold the step. -/

namespace Sys2Proof.Machine

/-- One micro-step in a turn of the given agent. -/
inductive MicroStep : Agent → State → State → Prop
  /-- H.ACCEPT (R141). -/
  | accept {s : State} (w : HcWord) (h : s.hph = .idle) :
    MicroStep .host s (latchWord w (s.consumeOffer.emitHost (.cmd w)))
  /-- H.ACQ to H.RSP (R142 to R147). -/
  | host {s s' : State} (h : hostContinue s = some s') : MicroStep .host s s'
  /-- S.ACQ to S.RESUME (R111 to R117). -/
  | strm {s s' : State} (h : strmMicro s = some s') : MicroStep .strm s s'
  /-- The boundary's completion (R176), in its own turn or inside a whole `EMIT`. -/
  | complete {a : Agent} {s s' : State} (ha : a ≠ .host) (h : giveDelayDone s = some s') : MicroStep a s s'
  /-- The boundary takes a `SEND` that stands on its port (log entry 17). -/
  | takeSend {s : State} (w : TbsWord) (h : s.tbPort = some (.send w)) :
    MicroStep .boundary s ((takeSend w s).setTbPort none)
  /-- The boundary takes a `DELAY` that stands on its port (log entry 17). -/
  | takeDelay {s : State} (n : TbdWord) (h : s.tbPort = some (.delay n)) :
    MicroStep .boundary s ((takeDelay n s).setTbPort none)

/-- A chain of micro-steps in one turn. -/
abbrev MicroSteps (a : Agent) : State → State → Prop := Relation.ReflTransGen (MicroStep a)

/-! ## Host turns -/

theorem finishCommand_micro (n : Nat) (s : State) : MicroSteps .host s (finishCommand n s) :=
  finishCommand_keeps (P := MicroSteps .host s) (fun _ _ h hP => hP.tail (.host h)) n s .refl

theorem runCommand_micro {w : HcWord} {latch : State → State} (hl : ∀ s, latchWord w s = latch s) (s : State) :
    MicroSteps .host s (runCommand w latch s) := by
  unfold runCommand
  split
  · rename_i s' h
    obtain ⟨hp, rfl⟩ := acceptCommand_eq_some.mp h
    rw [← hl]
    exact (Relation.ReflTransGen.single (.accept w hp)).trans (finishCommand_micro 5 _)
  · exact .refl

theorem giveResponse_micro (b : Bool) (s : State) : MicroSteps .host s (giveResponse b s) := by
  rcases giveResponse_cases b s with h | ⟨hp, -, hr, h⟩
  · rw [h]
  · rw [h]; exact .single (.host (by simp [hostContinue, hp, hRsp, hr]))

theorem silentHost_micro (g : Grain) (s : State) : MicroSteps .host s (silentHost g s) := by
  cases g
  · simp only [silentHost]
    cases h : hostMicro s with
    | none => exact .refl
    | some s' =>
      unfold hostMicro at h
      split at h <;> try exact .single (.host h)
      unfold hAccept at h
      split at h
      · obtain ⟨hp, rfl⟩ := acceptCommand_eq_some.mp h
        exact .single (.accept _ hp)
      · cases h
  · exact finishCommand_micro 5 s

/-! ## Streamer turns -/

theorem runEmit_micro {s : State} (hp : s.sph = .step) : MicroSteps .strm s (runEmit s) :=
  runEmit_keeps (P := MicroSteps .strm s) (fun _ _ h hP => hP.tail (.strm h))
    (fun _ _ h hP => hP.tail (.complete (by decide) h)) hp .refl

theorem silentStreamer_micro (g : Grain) (s : State) : MicroSteps .strm s (silentStreamer g s) := by
  cases g
  · simp only [silentStreamer]
    cases h : strmMicro s with
    | none => exact .refl
    | some s' => exact .single (.strm h)
  · simp only [silentStreamer]
    split
    all_goals first
      | exact runSnapshot_keeps (P := MicroSteps .strm s) (fun _ _ h hP => hP.tail (.strm h)) 3 s .refl
      | exact finishEmit_keeps (P := MicroSteps .strm s) (fun _ _ h hP => hP.tail (.strm h))
          (fun _ _ h hP => hP.tail (.complete (by decide) h)) .refl

/-! ## What is fetched -/

theorem responseWord_decodes {s : State} {i : Instr} (h : (decodeResponse (responseWord s)).toOption = some i) :
    (s.hkind = .upd ∧ i = .ack) ∨ (s.hkind = .rd ∧ i = .data s.hbuf) ∨ (s.hkind = .bad ∧ i = .err) := by
  unfold responseWord at h
  split at h <;> rename_i hk <;> simp [decodeResponse, Except.toOption] at h <;> simp [hk, h]

theorem decodeHostCommand_cases (w : HcWord) :
    (∃ l, decodeHostCommand w = .updateLevels l ∧ encodeHostCommand (.updateLevels l) = w) ∨
    (decodeHostCommand w = .readSnapshot ∧ encodeHostCommand .readSnapshot = w) ∨
    (∃ a, decodeHostCommand w = .illegalOp00 a ∧ encodeHostCommand (.illegalOp00 a) = w) ∨
    (∃ a, decodeHostCommand w = .illegalOp11 a ∧ encodeHostCommand (.illegalOp11 a) = w) ∨
    (∃ a, a ≠ 0 ∧ decodeHostCommand w = .illegalRdArg a ∧ encodeHostCommand (.illegalRdArg a) = w) := by
  have hw := hcWord_fields w
  have four : ∀ op : BitVec 2, op ≠ 0b01 → op ≠ 0b10 → op ≠ 0b00 → op = 0b11 := by decide
  unfold decodeHostCommand
  split
  · rename_i h; exact .inl ⟨_, rfl, by rw [encodeHostCommand, packLevels_unpackLevels, ← h, hw]⟩
  · split
    · rename_i h
      split
      · rename_i ha; exact .inr (.inl ⟨rfl, by rw [encodeHostCommand, ← h, ← ha, hw]⟩)
      · rename_i ha; exact .inr (.inr (.inr (.inr ⟨_, ha, rfl, by rw [encodeHostCommand, ← h, hw]⟩)))
    · split
      · rename_i h; exact .inr (.inr (.inl ⟨_, rfl, by rw [encodeHostCommand, ← h, hw]⟩))
      · rename_i h1 h2 h0
        exact .inr (.inr (.inr (.inl ⟨_, rfl, by rw [encodeHostCommand, ← four _ h1 h2 h0, hw]⟩)))

/-- The word at `SNAP[IDX]` is `SKIP` or `EMIT` as its duration says (R71). -/
theorem decodeStepWord_current (s : State) :
    decodeStepWord (stepWord s.currentStep) =
      if s.durZero then .skip s.currentStep.mask else .emit s.currentStep.mask s.currentStep.dur := by
  simp [decodeStepWord, State.durZero]

/-! ## The inversion lemma -/

/-- A turn never stops the machine, and what it does is a chain of its agent's micro-steps. -/
theorem runTurn_micro (t : Turn) (s : State) : ∃ s', runTurn t s = .next s' ∧ MicroSteps t.agent s s' := by
  obtain ⟨agent, grain, inputs⟩ := t
  cases agent
  · -- the host engine
    simp only [runTurn, fetch, silentTurn]
    cases hf : fetchHost grain s with
    | none => exact ⟨_, rfl, silentHost_micro grain s⟩
    | some i =>
      unfold fetchHost at hf
      split at hf <;> try simp at hf
      · cases grain <;> simp at hf
        obtain ⟨w, -, hw⟩ := hf
        rcases decodeHostCommand_cases w with ⟨l, h, -⟩ | ⟨h, -⟩ | ⟨a, h, -⟩ | ⟨a, h, -⟩ | ⟨a, ha, h, -⟩ <;>
          rw [h] at hw <;> subst hw
        · exact ⟨_, rfl, runCommand_micro (fun s => latchWord_updateLevels l s) s⟩
        · exact ⟨_, rfl, runCommand_micro (fun s => latchWord_readSnapshot s) s⟩
        · exact ⟨_, rfl, runCommand_micro (fun s => latchWord_illegalOp00 a s) s⟩
        · exact ⟨_, rfl, runCommand_micro (fun s => latchWord_illegalOp11 a s) s⟩
        · exact ⟨_, rfl, runCommand_micro (fun s => latchWord_illegalRdArg a ha s) s⟩
      · rcases responseWord_decodes hf.2 with ⟨-, rfl⟩ | ⟨-, rfl⟩ | ⟨-, rfl⟩ <;>
          exact ⟨_, rfl, giveResponse_micro _ s⟩
  · -- the streamer
    simp only [runTurn, fetch, silentTurn]
    cases hf : fetchStreamer grain s with
    | none => exact ⟨_, rfl, silentStreamer_micro grain s⟩
    | some i =>
      unfold fetchStreamer at hf
      split at hf <;> try simp at hf
      · rename_i hp
        rw [decodeStepWord_current] at hf
        have skip : s.durZero = true →
            ∃ s', (match exec (.skip s.currentStep.mask) s with
              | .next s' => .next (settle .strm (.skip s.currentStep.mask) s')
              | .fault r => .fault r | .refused r => .refused r) = Host.Outcome.next s' ∧ MicroSteps .strm s s' := by
          intro hd
          refine ⟨_, rfl, ?_⟩
          simp only [settle, settleStreamer]
          split
          · have : sSkip s = some s.advance := by simp [sSkip, hd]
            rw [this]; exact .single (.strm (by simp [strmMicro, hp, hd, this]))
          · exact .refl
        cases grain <;> simp only at hf
        · cases hd : s.durZero <;> simp [hd] at hf
          · obtain ⟨hr, hf⟩ := hf
            subst hf
            refine ⟨_, rfl, ?_⟩
            simp only [settle, settleStreamer, hr, if_true]
            exact .single (.strm (by simp [strmMicro, hp, hd, sSend, hr]; rfl))
          · subst hf; exact skip hd
        · cases hd : s.durZero <;> simp [hd] at hf <;> subst hf
          · refine ⟨_, rfl, ?_⟩
            simp only [settle, settleStreamer]
            split
            · exact runEmit_micro hp
            · exact .refl
          · exact skip hd
      · rename_i hp
        cases grain <;> simp at hf
        subst hf
        exact ⟨_, rfl, .single (.strm (by simp [strmMicro, hp, sDly]; rfl))⟩
  · -- the boundary
    simp only [runTurn, fetch, silentTurn]
    cases hf : fetchBoundary s with
    | none =>
      refine ⟨_, rfl, ?_⟩
      cases h : giveDelayDone s with
      | none => exact .refl
      | some s' => exact .single (.complete (by decide) h)
    | some i =>
      unfold fetchBoundary at hf
      split at hf
      · rename_i w hp
        split at hf <;> simp at hf
        rename_i hr
        subst hf
        refine ⟨_, rfl, ?_⟩
        simp only [settle, hr, if_true]
        exact .single (.takeSend w hp)
      · rename_i n hp
        simp at hf
        subst hf
        exact ⟨_, rfl, .single (.takeDelay n hp)⟩
      · cases hf

/-- What a step can do: it samples the turn's inputs, and then the turn's agent takes a chain of micro-steps. -/
theorem step_micro {s t : State} (h : step s = .next t) : MicroSteps s.turn.agent s.atTurn t := by
  obtain ⟨s', h', hm⟩ := runTurn_micro s.turn s.atTurn
  rw [step, h'] at h
  cases h
  exact hm

/-- A property that sampling inputs keeps, and that every micro-step of the turn's agent keeps, is kept by a step. -/
theorem step_keeps {P : State → Prop} {s t : State} (begins : P s → P s.atTurn)
    (keep : ∀ u v, MicroStep s.turn.agent u v → P u → P v) (h : step s = .next t) (hs : P s) : P t := by
  have hm := step_micro h
  have h0 := begins hs
  clear h begins hs
  induction hm with
  | refl => exact h0
  | tail _ hstep ih => exact keep _ _ hstep ih

end Sys2Proof.Machine
end

