-- ==== Sys2Proof/Tests/Slice0.lean ====
section
/-! SUPPORT. Small checks on fixed values: the worked vectors of `95_test_vectors.md` (each named by its id), a hand-written word for every
instruction, the ill-formed terms, and, for each statement with hypotheses, a state and operands that meet them. -/

set_option exponentiation.threshold 600

namespace Sys2Proof.Tests

set_option Elab.async false

open Sys2Proof.Machine

/-! ## Helpers -/

/-- The next state of a step, where there is one. -/
def after (s : State) : Option State :=
  match step s with
  | .next t => some t
  | .fault _ | .refused _ => none

/-- The next state of a whole instruction. -/
def ran (i : Instr) (s : State) : Option State :=
  match exec i s with
  | .next t => some t
  | .fault _ | .refused _ => none

/-- The levels of VR3. -/
abbrev lv3 : Levels := #v[0, 2, 5, 0, 0, 100, 0, 0]

/-- The Steps of VR3. -/
abbrev seq3 : Sequence :=
  #v[⟨0xFF, 0⟩, ⟨0xFE, 0⟩, ⟨0xF6, 0⟩, ⟨0xE6, 0⟩, ⟨0xA6, 0⟩, ⟨0x26, 2⟩, ⟨0x24, 3⟩, ⟨0x20, 95⟩, ⟨0x00, 155⟩]

/-- The Steps of VR1. -/
abbrev seq1 : Sequence :=
  #v[⟨0xFF, 0⟩, ⟨0xFE, 0⟩, ⟨0xFC, 0⟩, ⟨0xF8, 0⟩, ⟨0xF0, 0⟩, ⟨0xE0, 0⟩, ⟨0xC0, 0⟩, ⟨0x80, 0⟩, ⟨0x00, 255⟩]

/-- The Steps of VR2. -/
abbrev seq2 : Sequence :=
  #v[⟨0xFF, 255⟩, ⟨0xFE, 0⟩, ⟨0xFC, 0⟩, ⟨0xF8, 0⟩, ⟨0xF0, 0⟩, ⟨0xE0, 0⟩, ⟨0xC0, 0⟩, ⟨0x80, 0⟩, ⟨0x00, 0⟩]

/-- A turn of the host engine. -/
abbrev hostTurn (g : Grain) (offer : Option HcWord) (ready : Bool) : Turn := ⟨.host, g, ⟨offer, ready, false, false⟩⟩

/-- A turn of the streamer. -/
abbrev strmTurn (g : Grain) (ready done : Bool) : Turn := ⟨.strm, g, ⟨none, false, ready, done⟩⟩

/-- A turn of the boundary. -/
abbrev boundaryTurn (ready : Bool) : Turn := ⟨.boundary, .micro, ⟨none, false, ready, false⟩⟩

/-- The host engine in a phase, the rest as at reset. -/
abbrev hostAt (p : HPhase) (k : HKind) (l : Lock) (t : Turn) : State :=
  { State.reset with hph := p, hkind := k, lock := l, sched := [t], inputs := t.inputs }

/-- The streamer in a phase, with VR3 as its snapshot, the rest as at reset. -/
abbrev strmAt (p : SPhase) (k : StepIndex) (l : Lock) (t : Turn) : State :=
  { State.reset with sph := p, idx := k, snap := seq3, lock := l, sched := [t], inputs := t.inputs }

/-- The host engine has written VR3's levels and not yet the sequence, while the streamer waits for the delay of VR1's last Step
(P3, checkpoint 3). -/
abbrev midUpdate : State :=
  { State.reset with
    levels := lv3, hlv := lv3, hkind := .upd, hph := .reflect, lock := .host, snap := seq1, sph := .wait, idx := 8,
    lastWord := some 0, tbPend := some 2550, tbTrace := [.send 0, .delay 2550] }

/-- The streamer holds the lock and has made its copy, while a read waits for the lock (P3, checkpoint 6). -/
abbrev midSnapshot : State :=
  { State.reset with snap := seq1, sph := .rel, lock := .strm, hph := .acq, hkind := .rd }

/-- A command of kind `k` is done and its response not yet taken, while the streamer is at VR1's last Step. -/
abbrev responding (k : HKind) : State :=
  { State.reset with
    levels := lv3, hlv := lv3, steps := seq3, hbuf := seq3, hkind := k, hph := .rsp, snap := seq1, sph := .step, idx := 8,
    lastWord := some 0xFF }

/-! ## Well-formed terms -/

theorem test_wf_read_with_zero_arg_is_no_illegal_word : (Instr.illegalRdArg 0).wellFormed = false := by decide
theorem test_wf_emit_of_duration_zero_is_no_emit : (Instr.emit 0x26 0).wellFormed = false := by decide
theorem test_wf_illegal_read : (Instr.illegalRdArg 1).wellFormed = true := by decide
theorem test_wf_emit : (Instr.emit 0x26 1).wellFormed = true := by decide

/-! ## Decoding: one word written out for every constructor (vectors VE4 to VE23) -/

theorem test_decode_updateLevels :
    decodeTableWord 66 0x10000640000050200 = some (.updateLevels lv3) := by decide +kernel
theorem test_decode_readSnapshot : decodeTableWord 66 0x20000000000000000 = some .readSnapshot := by decide +kernel
theorem test_decode_illegalOp00 : decodeTableWord 66 0x00000000000000000 = some (.illegalOp00 0) := by decide +kernel
theorem test_decode_illegalOp11 :
    decodeTableWord 66 0x3FFFFFFFFFFFFFFFF = some (.illegalOp11 0xFFFFFFFFFFFFFFFF) := by decide +kernel
theorem test_decode_illegalRdArg : decodeTableWord 66 0x20000000000000001 = some (.illegalRdArg 1) := by decide +kernel
theorem test_decode_ack :
    decodeTableWord 362
      0x1000000000000000000000000000000000000000000000000000000000000000000000000000000000000000000
      = some .ack := by decide +kernel
theorem test_decode_data :
    decodeTableWord 362
      0x29B000000005F000000200300000024020000002600000000A600000000E600000000F600000000FE00000000FF
      = some (.data seq3) := by decide +kernel
theorem test_decode_err :
    decodeTableWord 362
      0x3000000000000000000000000000000000000000000000000000000000000000000000000000000000000000000
      = some .err := by decide +kernel
theorem test_decode_skip : decodeTableWord 40 0x00000000FF = some (.skip 0xFF) := by decide +kernel
theorem test_decode_emit : decodeTableWord 40 0x0200000026 = some (.emit 0x26 2) := by decide +kernel
theorem test_decode_emit_all_off : decodeTableWord 40 0xFF00000000 = some (.emit 0 255) := by decide +kernel
theorem test_decode_send : decodeTableWord 32 0x00000026 = some (.send 0x26) := by decide +kernel
theorem test_decode_delay : decodeTableWord 16 0x09F6 = some (.delay 2550) := by decide +kernel

/-- The same word as bytes, first byte least significant (log entry 15). -/
theorem test_decode_bytes : decode .st [0x26, 0, 0, 0, 2] = .ok (.emit 0x26 2) := by decide +kernel
theorem test_decode_wrong_length : decode .st [0x26, 0, 0, 2] = .error .wrongLength := by decide +kernel
theorem test_decode_padding : decode .hc [0, 0, 0, 0, 0, 0, 0, 0, 4] = .error .paddingNotZero := by decide +kernel
theorem test_decode_reserved_kind : decodeTableWord 362 5 = none := by decide +kernel
theorem test_decode_ack_with_data : decodeResponse (0b01#2 ++ 1#360) = .error .ackDataNotZero := by decide +kernel
theorem test_decode_err_with_data : decodeResponse (0b11#2 ++ 1#360) = .error .errDataNotZero := by decide +kernel

/-! ## Encoding (vectors VE1, VE3, VE14, VE19 to VE22) -/

theorem test_encode_levels_VE1 : packLevels lv3 = 0x0000640000050200 := by decide +kernel
theorem test_encode_levels_VE3 : packLevels #v[1, 255, 0, 254, 128, 128, 127, 1] = 0x017F8080FE00FF01 := by decide +kernel
theorem test_encode_sequence_VE14 :
    packSequence seq3 =
      0x9B000000005F000000200300000024020000002600000000A600000000E600000000F600000000FE00000000FF := by decide +kernel
theorem test_delay_count_VE19 : delayCount Config.refQuantum 1 = 10 := by decide
theorem test_delay_count_VE21 : delayCount ⟨257, by decide, by decide⟩ 255 = 0xFFFF := by decide
theorem test_delay_count_VE22 : delayCount ⟨1, by decide, by decide⟩ 1 = 1 := by decide

/-! ## REFLECT (vectors VR2, VR3, VR8, VR10) -/

theorem test_reflect_VR2 : reflect (Vector.replicate 8 255) = seq2 := by decide +kernel
theorem test_reflect_VR3 : reflect lv3 = seq3 := by decide +kernel
theorem test_reflect_VR8 :
    reflect #v[1, 255, 0, 254, 128, 128, 127, 1] =
      #v[⟨0xFF, 0⟩, ⟨0xFB, 1⟩, ⟨0xFA, 0⟩, ⟨0x7A, 126⟩, ⟨0x3A, 1⟩, ⟨0x2A, 0⟩, ⟨0x0A, 126⟩, ⟨0x02, 1⟩, ⟨0x00, 0⟩] := by
  decide +kernel
theorem test_reflect_order_VR10 : sortChannels #v[7, 7, 3, 3, 7, 3, 200, 200] = [2, 3, 5, 0, 1, 4, 6, 7] := by
  decide +kernel
theorem test_reset_VZ1 : State.reset.steps = seq1 := by decide +kernel

/-! ## Instructions (vectors VH1 to VH8, VS3, VS11 to VS20, VB1, VB2) -/

/-- VH1: as the first instruction after reset. -/
theorem test_updateLevels_VH1 :
    (after (State.reset.withFetchWord 66 0x10000640000050200)).map
      (fun t => (t.levels, t.steps, t.hkind, t.hlv)) = some (lv3, seq3, .upd, lv3) := by decide +kernel
/-- VH7: with the lock taken the engine waits in `H_ACQ`. -/
theorem test_updateLevels_VH7 :
    (ran (.updateLevels lv3) { strmAt .copy 0 .strm (hostTurn .whole none true) with hph := .idle }).map
      (fun t => (t.hph, t.levels, t.lock)) = some (.acq, Vector.replicate 8 0, .strm) := by decide +kernel
/-- VH2: the reset sequence is read back, and the response is VE15 with kind `0b10`. -/
theorem test_readSnapshot_VH2 :
    (after (State.reset.withFetchWord 66 0x20000000000000000)).map (fun t => (t.hbuf, t.hkind, t.hostTrace)) =
      some (seq1, .rd, [.cmd 0x20000000000000000,
        .rsp 0x2FF00000000000000008000000000C000000000E000000000F000000000F800000000FC00000000FE00000000FF]) := by
  decide +kernel
/-- VH3. -/
theorem test_illegalOp00_VH3 :
    (after (State.reset.withFetchWord 66 0)).map (fun t => (t.hkind, t.lock, t.steps, t.hostTrace)) =
      some (.bad, .free, seq1, [.cmd 0,
        .rsp 0x3000000000000000000000000000000000000000000000000000000000000000000000000000000000000000000]) := by
  decide +kernel
/-- VH5. -/
theorem test_illegalOp11_VH5 :
    (after (State.reset.withFetchWord 66 0x300000000000000FF)).map (fun t => (t.hkind, t.hph, t.levels)) =
      some (.bad, .idle, Vector.replicate 8 0) := by decide +kernel
/-- VH4. -/
theorem test_illegalRdArg_VH4 :
    (after (State.reset.withFetchWord 66 0x20000000000000001)).map (fun t => (t.hkind, t.hph, t.hbuf)) =
      some (.bad, .idle, State.reset.hbuf) := by decide +kernel
/-- VH8: with a host that is not ready the engine stays in `H_RSP`. -/
theorem test_response_VH8 :
    (after (hostAt .rsp .upd .free (hostTurn .micro (some 0x20000000000000000) false))).map
      (fun t => (t.hph, t.hostTrace)) = some (.rsp, []) := by decide +kernel
theorem test_ack :
    (ran .ack (hostAt .rsp .upd .free (hostTurn .micro none true))).map (fun t => (t.hph, t.hostTrace.length)) =
      some (.idle, 1) := by decide +kernel
theorem test_ack_not_after_a_read :
    (ran .ack (hostAt .rsp .rd .free (hostTurn .micro none true))).map (fun t => (t.hph, t.hostTrace)) =
      some (.rsp, []) := by decide +kernel
theorem test_data :
    (ran (.data seq3) { hostAt .rsp .rd .free (hostTurn .micro none true) with hbuf := seq3 }).map
      (fun t => (t.hph, t.hostTrace.length)) = some (.idle, 1) := by decide +kernel
theorem test_err :
    (ran .err (hostAt .rsp .bad .free (hostTurn .micro none true))).map (fun t => (t.hph, t.hostTrace.length)) =
      some (.idle, 1) := by decide +kernel
/-- VS12. -/
theorem test_skip_VS12 :
    (after (strmAt .step 4 .free (strmTurn .micro false false))).map (fun t => (t.sph, t.idx, t.tbTrace)) =
      some (.step, 5, []) := by decide +kernel
/-- VS17: a skipped ninth Step wraps. -/
theorem test_skip_VS17 :
    (after { strmAt .step 8 .free (strmTurn .micro false false) with snap := seq2 }).map
      (fun t => (t.sph, t.idx, t.tbTrace)) = some (.acq, 0, []) := by decide +kernel
/-- VS13 to VS15 in one whole `EMIT`. -/
theorem test_emit_VS13_to_VS15 :
    (ran (.emit 0x26 2) (strmAt .step 5 .free (strmTurn .whole true true))).map
      (fun t => (t.sph, t.idx, t.tbPend, t.tbTrace)) =
      some (.step, 6, none, [.send 0x26, .delay 20, .delayDone]) := by decide +kernel
/-- VS14. -/
theorem test_emit_VS14 :
    (after (strmAt .dly 5 .free (strmTurn .micro false false))).map (fun t => (t.sph, t.idx, t.tbPend, t.tbTrace)) =
      some (.wait, 5, some 20, [.delay 20]) := by decide +kernel
/-- VS16: the resume after the last Step wraps. -/
theorem test_resume_VS16 :
    (after { strmAt .wait 8 .free (strmTurn .micro false false) with delayDone := true }).map
      (fun t => (t.sph, t.idx, t.delayDone)) = some (.acq, 0, false) := by decide +kernel
/-- VS20: the lock is not free. -/
theorem test_acquire_VS20 :
    (after (strmAt .acq 0 .host (strmTurn .micro false false))).map (fun t => (t.sph, t.lock)) = some (.acq, .host) := by
  decide +kernel
/-- VB1. -/
theorem test_send_VB1 :
    (after (State.reset.withFetchWord 32 0x26)).map (fun t => (t.line, t.tbPend, t.tbPort)) = some (0x26, none, none) := by
  decide +kernel
/-- VB2. -/
theorem test_delay_VB2 :
    (after (State.reset.withFetchWord 16 20)).map (fun t => (t.lastWord, t.tbPend, t.tbPort)) =
      some (none, some 20, none) := by decide +kernel
/-- VB3. -/
theorem test_completion_VB3 :
    (after { State.reset with tbPend := some 20, sched := [boundaryTurn false] }).map (fun t => (t.tbPend, t.delayDone)) =
      some (none, true) := by decide +kernel

/-! ## States that meet the hypotheses of the statements

Each theorem `witness_<Name>…` belongs to `Obligations.<Name>`. -/

/-- For the statements about a state that meets the invariant: the host engine holds the lock. -/
theorem witness_inv_midUpdate : Inv midUpdate where
  shared h := absurd rfl h
  lock := by unfold LockOwned; decide
  index := by unfold IndexPlaced; decide
  kind := by unfold KindPlaced; decide
  delay := by unfold DelayPlaced; decide
  snap _ _ := ⟨Vector.replicate 8 0, by decide +kernel⟩
  response := by unfold ResponseCurrent; decide
  port := rfl

/-- The streamer holds the lock. -/
theorem witness_inv_midSnapshot : Inv midSnapshot where
  shared _ := rfl
  lock := by unfold LockOwned; decide
  index := by unfold IndexPlaced; decide
  kind := by unfold KindPlaced; decide
  delay := by unfold DelayPlaced; decide
  snap _ _ := ⟨Vector.replicate 8 0, by decide +kernel⟩
  response := by unfold ResponseCurrent; decide
  port := rfl

/-- A response of each kind is waiting. -/
theorem witness_inv_responding (k : HKind) : Inv (responding k) where
  shared _ := by show seq3 = reflect lv3; decide +kernel
  lock := by unfold LockOwned; cases k <;> decide
  index := by unfold IndexPlaced; cases k <;> decide
  kind := by unfold KindPlaced; cases k <;> decide
  delay := by unfold DelayPlaced; cases k <;> decide
  snap _ _ := ⟨Vector.replicate 8 0, by show seq1 = _; decide +kernel⟩
  response := by unfold ResponseCurrent; cases k <;> decide +kernel
  port := rfl

/-- The invariant says nothing about the schedule. -/
theorem inv_withTurns {s : State} (h : Inv s) (ts : List Turn) : Inv (s.withTurns ts) :=
  ⟨h.shared, h.lock, h.index, h.kind, h.delay, h.snap, h.response, h.port⟩

theorem witness_StepKeepsInvariant :
    Inv (midUpdate.withTurns [hostTurn .micro none true]) ∧ ∃ t, step (midUpdate.withTurns [hostTurn .micro none true]) = .next t :=
  ⟨inv_withTurns witness_inv_midUpdate _, _, rfl⟩

/-- A reachable state with a stale sequence: three micro-steps of an update. -/
theorem witness_ReachableStatesCoherent_stale :
    ∃ s : State, Sys2Proof.core.run 3 ((State.resetWith Config.refQuantum).withTurns
      [hostTurn .micro (some 0x10000640000050200) true, hostTurn .micro none true, hostTurn .micro none true]) = .next s ∧
      s.hph = .reflect ∧ s.sph = .acq := ⟨_, rfl, by decide +kernel, by decide +kernel⟩

/-- A reachable state inside a cycle: an update to all 255, a snapshot, S.SEND. -/
theorem witness_ReachableStatesCoherent_delay :
    ∃ s : State, Sys2Proof.core.run 3 ((State.resetWith Config.refQuantum).withTurns
      [hostTurn .whole (some 0x1FFFFFFFFFFFFFFFF) true, strmTurn .whole true true, strmTurn .micro true true]) = .next s ∧
      s.hph ≠ .reflect ∧ s.sph = .dly := ⟨_, rfl, by decide +kernel, by decide +kernel⟩

theorem witness_DecodeEncodeAgree : (Instr.emit 0xFFFFFFFF 255).wellFormed = true := by decide
theorem witness_EncodeDecodeAgree : decode .st [0xFF, 0xFF, 0xFF, 0xFF, 1] = .ok (.emit 0xFFFFFFFF 1) := by
  decide +kernel

theorem witness_HostCommandMap_update : (0x1FFFFFFFFFFFFFFFF : HcWord) &&& 0x30000000000000000 = 0x10000000000000000 := by
  decide
theorem witness_HostCommandMap_read : (0x20000000000000000 : HcWord) &&& 0x3FFFFFFFFFFFFFFFF = 0x20000000000000000 := by
  decide
theorem witness_HostCommandMap_op00 : (0x0FFFFFFFFFFFFFFFF : HcWord).extractLsb' 64 2 = 0b00 := by decide
theorem witness_HostCommandMap_op11 : (0x30000000000000000 : HcWord).extractLsb' 64 2 = 0b11 := by decide
theorem witness_HostCommandMap_rdArg :
    (0x20000000000000001 : HcWord).extractLsb' 64 2 = 0b10 ∧ (0x20000000000000001 : HcWord).extractLsb' 0 64 ≠ 0 := by
  decide
theorem witness_StepWordMap_skip : (0x00FFFFFFFF : StWord) &&& 0xFF00000000 = 0x0000000000 := by decide
theorem witness_StepWordMap_emit : (0x0100000000 : StWord) &&& 0xFF00000000 ≠ 0x0000000000 := by decide
theorem witness_ResponseWords : (5 : HrWord).extractLsb' 360 2 = 0b00 := by decide

/-! ### `StepRunsDecodedWord`, clause by clause -/

theorem witness_StepRunsDecodedWord_command :
    let s := hostAt .idle .bad .free (hostTurn .whole (some 0x10000640000050200) true)
    s.turn.agent = .host ∧ s.turn.grain = .whole ∧ s.hph = .idle ∧ s.turn.inputs.offer = some 0x10000640000050200 ∧
      decode .hc (bytesOfWord 9 (0x10000640000050200 : HcWord).toNat) = .ok (.updateLevels lv3) := by decide +kernel
theorem witness_StepRunsDecodedWord_response :
    let s := hostAt .rsp .upd .free (hostTurn .micro none true)
    s.turn.agent = .host ∧ s.hph = .rsp ∧ s.turn.inputs.hostReady = true ∧
      decode .hr (bytesOfWord 46 (responseWord s).toNat) = .ok .ack := by decide +kernel
theorem witness_StepRunsDecodedWord_emit :
    let s := strmAt .step 5 .free (strmTurn .whole true true)
    s.turn.agent = .strm ∧ s.turn.grain = .whole ∧ s.sph = .step ∧
      decode .st (bytesOfWord 5 (stepWord s.snap[s.idx]).toNat) = .ok (.emit 0x26 2) := by decide +kernel
theorem witness_StepRunsDecodedWord_skip :
    let s := strmAt .step 4 .free (strmTurn .micro true true)
    s.turn.agent = .strm ∧ s.turn.grain = .micro ∧ s.sph = .step ∧ s.snap[s.idx].dur = 0 ∧
      decode .st (bytesOfWord 5 (stepWord s.snap[s.idx]).toNat) = .ok (.skip 0xA6) := by decide +kernel
theorem witness_StepRunsDecodedWord_send :
    let s := strmAt .step 8 .free (strmTurn .micro true true)
    s.turn.agent = .strm ∧ s.turn.grain = .micro ∧ s.sph = .step ∧ s.snap[s.idx].dur ≠ 0 ∧
      s.turn.inputs.tbReady = true ∧ decode .tbs (bytesOfWord 4 s.snap[s.idx].mask.toNat) = .ok (.send 0) := by
  decide +kernel
theorem witness_StepRunsDecodedWord_delay :
    let s := strmAt .dly 8 .free (strmTurn .micro true true)
    s.turn.agent = .strm ∧ s.turn.grain = .micro ∧ s.sph = .dly ∧
      decode .tbd (bytesOfWord 2 (delayCount s.quantum s.snap[s.idx].dur).toNat) = .ok (.delay 1550) := by
  decide +kernel
theorem witness_StepRunsDecodedWord_standing_send :
    let s := { State.reset with tbPort := some (.send 0x26), sched := [boundaryTurn true] }
    s.turn.agent = .boundary ∧ s.tbPort = some (.send 0x26) ∧ s.turn.inputs.tbReady = true ∧
      decode .tbs (bytesOfWord 4 (0x26 : TbsWord).toNat) = .ok (.send 0x26) := by decide +kernel
theorem witness_StepRunsDecodedWord_standing_delay :
    let s := { State.reset with tbPort := some (.delay 20), sched := [boundaryTurn true] }
    s.turn.agent = .boundary ∧ s.tbPort = some (.delay 20) ∧
      decode .tbd (bytesOfWord 2 (20 : TbdWord).toNat) = .ok (.delay 20) := by decide +kernel

/-! ### Whole instructions -/

/-- For `UpdateLevelsCompletes`, `ReadSnapshotCompletes` and, with `arg = 1`, `IllegalWordsAnswerErr`. -/
theorem witness_CommandsComplete :
    let s := hostAt .idle .bad .free (hostTurn .whole none true)
    s.hph = .idle ∧ s.lock = .free ∧ s.inputs.hostReady = true ∧ (1 : LvWord) ≠ 0 := by decide
theorem witness_CommandsWait_busy :
    (hostAt .rsp .upd .free (hostTurn .whole none false)).hph ≠ .idle ∧ (1 : LvWord) ≠ 0 := by decide
theorem witness_CommandsWait_lock :
    let s := hostAt .idle .bad .strm (hostTurn .whole none true)
    s.hph = .idle ∧ s.lock ≠ .free := by decide
theorem witness_CommandsWait_host :
    let s := hostAt .idle .bad .free (hostTurn .whole none false)
    s.hph = .idle ∧ s.lock = .free ∧ s.inputs.hostReady = false ∧ (1 : LvWord) ≠ 0 := by decide
theorem witness_ResponsesComplete (k : HKind) :
    let s := hostAt .rsp k .free (hostTurn .micro none true)
    s.hph = .rsp ∧ s.inputs.hostReady = true ∧ s.hkind = k := ⟨rfl, rfl, rfl⟩
theorem witness_SkipCompletes_last :
    let s := { strmAt .step 8 .free (strmTurn .whole true true) with snap := seq2 }
    s.sph = .step ∧ s.snap[s.idx] = ⟨0, 0⟩ ∧ s.idx = 8 := by decide
theorem witness_SkipCompletes_inner :
    let s := strmAt .step 0 .free (strmTurn .whole true true)
    s.sph = .step ∧ s.snap[s.idx] = ⟨0xFF, 0⟩ ∧ s.idx ≠ 8 := by decide
theorem witness_EmitCompletes_last :
    let s := strmAt .step 8 .free (strmTurn .whole true true)
    s.sph = .step ∧ s.snap[s.idx] = ⟨0, 155⟩ ∧ (155 : Duration) ≠ 0 ∧ s.inputs.tbReady = true ∧ s.inputs.tbDone = true := by
  decide
theorem witness_EmitCompletes_inner :
    let s := strmAt .step 7 .free (strmTurn .whole true true)
    s.sph = .step ∧ s.snap[s.idx] = ⟨0x20, 95⟩ ∧ (95 : Duration) ≠ 0 ∧ s.inputs.tbReady = true ∧ s.inputs.tbDone = true := by
  decide
theorem witness_EmitWaits_refused :
    let s := strmAt .step 5 .free (strmTurn .whole false true)
    s.sph = .step ∧ s.snap[s.idx] = ⟨0x26, 2⟩ ∧ (2 : Duration) ≠ 0 ∧ s.inputs.tbReady = false := by decide
theorem witness_EmitWaits_running :
    let s := strmAt .step 5 .free (strmTurn .whole true false)
    s.sph = .step ∧ s.snap[s.idx] = ⟨0x26, 2⟩ ∧ (2 : Duration) ≠ 0 ∧ s.inputs.tbReady = true ∧ s.inputs.tbDone = false ∧
      s.delayDone = false := by decide
theorem witness_SendCompletes :
    (strmAt .acq 0 .free (strmTurn .whole true true)).inputs.tbReady = true ∧
      (strmAt .acq 0 .free (strmTurn .whole false true)).inputs.tbReady = false := by decide

/-! ### Micro-steps -/

theorem witness_HostAcceptStep_none :
    let s := hostAt .idle .bad .free (hostTurn .micro none true)
    s.turn.agent = .host ∧ s.turn.grain = .micro ∧ s.hph = .idle ∧ s.turn.inputs.offer = none := by decide
theorem witness_HostAcceptStep_update :
    let s := hostAt .idle .bad .free (hostTurn .micro (some 0x1FFFFFFFFFFFFFFFF) true)
    s.turn.agent = .host ∧ s.turn.grain = .micro ∧ s.hph = .idle ∧ s.turn.inputs.offer = some 0x1FFFFFFFFFFFFFFFF ∧
      (0x1FFFFFFFFFFFFFFFF : HcWord).extractLsb' 64 2 = 0b01 := by decide
theorem witness_HostAcceptStep_read :
    let s := hostAt .idle .bad .free (hostTurn .micro (some 0x20000000000000000) true)
    s.turn.agent = .host ∧ s.turn.grain = .micro ∧ s.hph = .idle ∧ s.turn.inputs.offer = some 0x20000000000000000 ∧
      (0x20000000000000000 : HcWord).extractLsb' 64 2 = 0b10 ∧ (0x20000000000000000 : HcWord).extractLsb' 0 64 = 0 := by
  decide
theorem witness_HostAcceptStep_illegal :
    let s := hostAt .idle .upd .free (hostTurn .micro (some 0x20000000000000001) true)
    s.turn.agent = .host ∧ s.turn.grain = .micro ∧ s.hph = .idle ∧ s.turn.inputs.offer = some 0x20000000000000001 ∧
      (0x20000000000000001 : HcWord).extractLsb' 64 2 ≠ 0b01 ∧
      ¬((0x20000000000000001 : HcWord).extractLsb' 64 2 = 0b10 ∧ (0x20000000000000001 : HcWord).extractLsb' 0 64 = 0) := by
  decide
theorem witness_HostAcquireStep_free :
    let s := hostAt .acq .upd .free (hostTurn .micro none true)
    s.turn.agent = .host ∧ s.turn.grain = .micro ∧ s.hph = .acq ∧ s.lock = .free := by decide
theorem witness_HostAcquireStep_taken :
    let s := hostAt .acq .rd .strm (hostTurn .micro none true)
    s.turn.agent = .host ∧ s.turn.grain = .micro ∧ s.hph = .acq ∧ s.lock ≠ .free := by decide
/-- For `HostUpdateSteps` (`write` and `reflect`), `HostCopyStep` and `HostReleaseStep`, each with its own phase `p`. -/
theorem witness_HostSectionSteps (p : HPhase) :
    let s := hostAt p .upd .host (hostTurn .micro none true)
    s.turn.agent = .host ∧ s.turn.grain = .micro ∧ s.hph = p := ⟨rfl, rfl, rfl⟩
theorem witness_HostResponseStep (ready : Bool) :
    let s := hostAt .rsp .rd .free (hostTurn .micro none ready)
    s.turn.agent = .host ∧ s.hph = .rsp ∧ s.turn.inputs.hostReady = ready := ⟨rfl, rfl, rfl⟩
theorem witness_StreamerAcquireStep_free :
    let s := strmAt .acq 0 .free (strmTurn .micro true true)
    s.turn.agent = .strm ∧ s.turn.grain = .micro ∧ s.sph = .acq ∧ s.lock = .free := by decide
theorem witness_StreamerAcquireStep_taken :
    let s := strmAt .acq 0 .host (strmTurn .micro true true)
    s.turn.agent = .strm ∧ s.turn.grain = .micro ∧ s.sph = .acq ∧ s.lock ≠ .free := by decide
/-- For `StreamerCopyStep`, `StreamerReleaseStep` and `StreamerDelayStep`, each with its own phase `p`. -/
theorem witness_StreamerPhaseSteps (p : SPhase) :
    let s := strmAt p 8 .strm (strmTurn .micro true true)
    s.turn.agent = .strm ∧ s.turn.grain = .micro ∧ s.sph = p := ⟨rfl, rfl, rfl⟩
theorem witness_StreamerSkipStep :
    let s := strmAt .step 4 .free (strmTurn .micro true true)
    s.turn.agent = .strm ∧ s.sph = .step ∧ s.snap[s.idx].dur = 0 := by decide
theorem witness_StreamerSendStep_accepted :
    let s := strmAt .step 5 .free (strmTurn .micro true true)
    s.turn.agent = .strm ∧ s.turn.grain = .micro ∧ s.sph = .step ∧ s.snap[s.idx].dur ≠ 0 ∧ s.turn.inputs.tbReady = true := by
  decide
theorem witness_StreamerSendStep_refused :
    let s := strmAt .step 5 .free (strmTurn .micro false true)
    s.turn.agent = .strm ∧ s.turn.grain = .micro ∧ s.sph = .step ∧ s.snap[s.idx].dur ≠ 0 ∧
      s.turn.inputs.tbReady = false := by decide
theorem witness_StreamerResumeStep (done : Bool) :
    let s := { strmAt .wait 8 .free (strmTurn .micro true true) with delayDone := done }
    s.turn.agent = .strm ∧ s.turn.grain = .micro ∧ s.sph = .wait ∧ s.delayDone = done := ⟨rfl, rfl, rfl, rfl⟩
theorem witness_BoundaryCompletionStep_running :
    let s := { State.reset with tbPend := some 20, sched := [boundaryTurn false] }
    s.turn.agent = .boundary ∧ s.tbPort = none ∧ s.tbPend ≠ none := by decide
theorem witness_BoundaryCompletionStep_none :
    let s := { State.reset with sched := [boundaryTurn false] }
    s.turn.agent = .boundary ∧ s.tbPort = none ∧ s.tbPend = none := by decide

/-! ### Frames and whole-machine rules -/

theorem witness_HostTurnFrame :
    (midUpdate.withTurns [hostTurn .whole none true]).turn.agent = .host ∧
      ∃ t, step (midUpdate.withTurns [hostTurn .whole none true]) = .next t := ⟨rfl, _, rfl⟩
/-- For `StreamerTurnFrame` and, with two states that differ in what the streamer does not read, `StreamerBlindToLevels`. -/
theorem witness_StreamerTurnFrame :
    let s := strmAt .step 5 .free (strmTurn .whole true true)
    s.turn.agent = .strm ∧ (∃ t, step s = .next t) ∧
      ∃ t', step { s with levels := lv3, hlv := lv3, hbuf := seq3, hkind := .rd, hph := .rsp } = .next t' :=
  ⟨rfl, ⟨_, rfl⟩, _, rfl⟩
theorem witness_BoundaryTurnFrame :
    (midUpdate.withTurns [boundaryTurn true]).turn.agent = .boundary ∧ (midUpdate.withTurns [boundaryTurn true]).tbPort = none ∧
      ∃ t, step (midUpdate.withTurns [boundaryTurn true]) = .next t := ⟨rfl, rfl, _, rfl⟩
theorem witness_TracesAreNotRead :
    let s := midUpdate.withTurns [boundaryTurn true]
    (∃ t, step s = .next t) ∧ ∃ t', step { s with hostTrace := [.cmd 0], tbTrace := [] } = .next t' :=
  ⟨⟨_, rfl⟩, _, rfl⟩
theorem witness_MicroStepWrites :
    let s := midUpdate.withTurns [hostTurn .micro none true]
    s.turn.grain = .micro ∧ ∃ t, step s = .next t ∧ t.steps ≠ s.steps ∧ t.hph ≠ s.hph :=
  ⟨rfl, _, rfl, by decide +kernel, by decide +kernel⟩
/-- Every other clause of `MicroStepWrites`: a micro-step that changes the register. -/
theorem witness_MicroStepWrites_host :
    let turn := hostTurn .micro (some 0x10000640000050200) true
    (after { hostAt .write .upd .host turn with hlv := lv3 }).map (·.levels) = some lv3 ∧
      (after (hostAt .acq .upd .free turn)).map (·.lock) = some .host ∧
      (after (hostAt .idle .bad .free turn)).map (fun t => (t.hkind, t.hlv)) = some (.upd, lv3) ∧
      (after (hostAt .copy .rd .host turn)).map (·.hbuf) = some seq1 := by decide +kernel
theorem witness_MicroStepWrites_streamer :
    let turn := strmTurn .micro true true
    (after (strmAt .rel 0 .strm turn)).map (fun t => (t.lock, t.sph)) = some (.free, .step) ∧
      (after (strmAt .step 4 .free turn)).map (·.idx) = some 5 ∧
      (after (strmAt .copy 0 .strm turn)).map (·.snap) = some seq1 := by decide +kernel
theorem witness_QuantumIsStatic_legal : (1 ≤ 1 ∧ 1 ≤ 257) ∧ (1 ≤ 257 ∧ 257 ≤ 257) := by decide
theorem witness_QuantumIsStatic_illegal : (0 = 0 ∨ 257 < 0) ∧ (258 = 0 ∨ 257 < 258) := by decide
theorem witness_LinesHoldLastWord :
    ∃ t, step { strmAt .step 5 .free (strmTurn .micro true true) with lastWord := some 0 } = .next t ∧
      t.line ≠ { strmAt .step 5 .free (strmTurn .micro true true) with lastWord := some 0 }.line :=
  ⟨_, rfl, by decide +kernel⟩
theorem witness_LockHeldBriefly_host :
    Inv (midUpdate.withTurns [hostTurn .micro none true]) ∧ (midUpdate.withTurns [hostTurn .micro none true]).lock = .host :=
  ⟨inv_withTurns witness_inv_midUpdate _, rfl⟩
theorem witness_LockHeldBriefly_streamer :
    Inv (midSnapshot.withTurns [strmTurn .micro true true]) ∧ (midSnapshot.withTurns [strmTurn .micro true true]).lock = .strm :=
  ⟨inv_withTurns witness_inv_midSnapshot _, rfl⟩
theorem witness_NoWaitWithLock_host :
    let s := midSnapshot.withTurns [hostTurn .micro none true]
    Inv s ∧ step s = .next s.atTurn ∧ s.turn.agent = .host := ⟨inv_withTurns witness_inv_midSnapshot _, rfl, rfl⟩
theorem witness_NoWaitWithLock_streamer :
    let s := midUpdate.withTurns [strmTurn .micro true true]
    Inv s ∧ step s = .next s.atTurn ∧ s.turn.agent = .strm := ⟨inv_withTurns witness_inv_midUpdate _, rfl, rfl⟩
theorem witness_ResponseMeaning_ack :
    let s := (responding .upd).withTurns [hostTurn .micro none true]
    Inv s ∧ s.turn.agent = .host ∧ s.hph = .rsp ∧ s.hkind = .upd ∧ ∃ t, step s = .next t ∧ t.hostTrace ≠ s.hostTrace :=
  ⟨inv_withTurns (witness_inv_responding _) _, rfl, rfl, rfl, _, rfl, by decide +kernel⟩
theorem witness_ResponseMeaning_data :
    let s := (responding .rd).withTurns [hostTurn .micro none true]
    Inv s ∧ s.turn.agent = .host ∧ s.hph = .rsp ∧ s.hkind = .rd ∧ ∃ t, step s = .next t ∧ t.hostTrace ≠ s.hostTrace :=
  ⟨inv_withTurns (witness_inv_responding _) _, rfl, rfl, rfl, _, rfl, by decide +kernel⟩
theorem witness_ResponseMeaning_err :
    let s := (responding .bad).withTurns [hostTurn .micro none true]
    Inv s ∧ s.turn.agent = .host ∧ s.hph = .rsp ∧ s.hkind = .bad ∧ ∃ t, step s = .next t ∧ t.hostTrace ≠ s.hostTrace :=
  ⟨inv_withTurns (witness_inv_responding _) _, rfl, rfl, rfl, _, rfl, by decide +kernel⟩

/-! ### REFLECT, whole instructions, cycles -/

theorem witness_SortOrder :
    let l : Levels := #v[7, 7, 3, 3, 7, 3, 200, 200]
    let ord : List Channel := [2, 3, 5, 0, 1, 4, 6, 7]
    ord.Perm [0, 1, 2, 3, 4, 5, 6, 7] ∧ ord.Pairwise fun a b => l[a].toNat * 8 + a.val < l[b].toNat * 8 + b.val := by
  decide +kernel
theorem witness_OnDurationIsLevel_ends : (sortChannels lv3)[0]? = some 0 ∧ (sortChannels lv3)[7]? = some 5 := by
  decide +kernel
theorem witness_MaskShape_ends :
    (sortChannels lv3)[(0 : Fin 8).val]? = some 0 ∧ (sortChannels lv3)[(7 : Fin 8).val]? = some 5 := by decide +kernel
/-- Two ascending orders of VR10's levels, the tied channels the other way round in the second (R101). -/
theorem witness_TieBreakInvisible :
    let l : Levels := #v[7, 7, 3, 3, 7, 3, 200, 200]
    let ord : List Channel := [2, 3, 5, 0, 1, 4, 6, 7]
    let ord' : List Channel := [5, 3, 2, 4, 1, 0, 7, 6]
    ord.Perm [0, 1, 2, 3, 4, 5, 6, 7] ∧ ord'.Perm [0, 1, 2, 3, 4, 5, 6, 7] ∧
      (ord.Pairwise fun a b => l[a] ≤ l[b]) ∧ (ord'.Pairwise fun a b => l[a] ≤ l[b]) ∧
      (reflectLoop l ord 0xFF 0)[3]? = some ⟨0xD3, 4⟩ ∧ (reflectLoop l ord' 0xFF 0)[3]? = some ⟨0xD3, 4⟩ := by
  decide +kernel
theorem witness_DelayCountExact : (1 : Duration) ≠ 0 ∧ (255 : Duration) ≠ 0 := by decide
theorem witness_WholeCommandIsItsMicroSteps :
    (strmAt .copy 0 .strm (strmTurn .micro true true)).hph = .idle ∧ midSnapshot.hph ≠ .idle := by decide
/-- One state for each part of a whole streamer turn: the snapshot section, an `EMIT` to begin, an `EMIT` begun. -/
theorem witness_WholeStreamerTurnIsItsMicroSteps :
    (Inv midSnapshot ∧ midSnapshot.sph = .rel) ∧
      (Inv (responding .upd) ∧ (responding .upd).sph = .step ∧ (responding .upd).durZero = false) ∧
      Inv midUpdate ∧ midUpdate.sph = .wait :=
  ⟨⟨witness_inv_midSnapshot, rfl⟩, ⟨witness_inv_responding _, rfl, by decide⟩, witness_inv_midUpdate, rfl⟩
theorem witness_BoundaryTraceFollowsSnapshot :
    let s := midUpdate.withTurns [boundaryTurn true]
    Inv s ∧ s.tbTrace = [] ++ cycleProgress s ∧ ∃ t, step s = .next t :=
  ⟨inv_withTurns witness_inv_midUpdate _, by decide +kernel, _, rfl⟩
theorem witness_OneCycleCompletes :
    State.reset.sph = .acq ∧ State.reset.lock = .free ∧ State.reset.idx = 0 ∧
      (strmTurn .whole true true).inputs.tbReady = true ∧ (strmTurn .whole true true).inputs.tbDone = true := by decide
theorem witness_CycleSums : lv3[1] ≠ 0 ∧ (255 : Level) ∉ lv3.toList := by decide +kernel

end Sys2Proof.Tests
end

section
/-! The time quantum `Q` (R7, U18; log entry 10): which values reset accepts, and that no micro-step, and so no step, changes it. -/

namespace Sys2Proof.Machine

/-! ## The configurations of the block -/

theorem configure_of_legal (q : Quantum) : State.configure q.val = .next (State.resetWith q) := by
  simp only [State.configure, Config.quantumOf, dif_pos (And.intro q.pos q.le)]

theorem configure_of_not_legal {n : Nat} (h : ¬ (1 ≤ n ∧ n ≤ 257)) :
    State.configure n = .refused (.illegalQuantum n) := by
  simp only [State.configure, Config.quantumOf, dif_neg h]

/-! ## The shared operations and the micro-steps leave `Q` alone -/

variable {s s' : State}

@[simp] theorem State.atTurn_quantum (s : State) : s.atTurn.quantum = s.quantum := rfl

@[simp] theorem takeSend_quantum (w : TbsWord) (s : State) : (takeSend w s).quantum = s.quantum := rfl

@[simp] theorem takeDelay_quantum (n : TbdWord) (s : State) : (takeDelay n s).quantum = s.quantum := rfl

@[simp] theorem State.advance_quantum (s : State) : s.advance.quantum = s.quantum := by
  unfold State.advance
  split
  · rw [State.setSph_quantum, State.setIdx_quantum]
  · rw [State.setSph_quantum, State.setIdx_quantum]

@[simp] theorem State.latchUpdate_quantum (l : Levels) (s : State) : (s.latchUpdate l).quantum = s.quantum := rfl

@[simp] theorem State.latchRead_quantum (s : State) : s.latchRead.quantum = s.quantum := rfl

@[simp] theorem State.raiseIllegalCommand_quantum (s : State) : s.raiseIllegalCommand.quantum = s.quantum := rfl

@[simp] theorem latchWord_quantum (w : HcWord) (s : State) : (latchWord w s).quantum = s.quantum := by
  unfold latchWord
  split
  · exact State.latchUpdate_quantum _ s
  · split
    · exact State.latchRead_quantum s
    · exact State.raiseIllegalCommand_quantum s

theorem hostContinue_quantum (h : hostContinue s = some s') : s'.quantum = s.quantum := by
  rcases hostContinue_cases h with ⟨-, -, rfl⟩ | ⟨-, rfl⟩ | ⟨-, rfl⟩ | ⟨-, rfl⟩ | ⟨-, rfl⟩ | ⟨-, -, rfl⟩ <;> rfl

theorem strmMicro_quantum (h : strmMicro s = some s') : s'.quantum = s.quantum := by
  rcases strmMicro_cases h with
    ⟨-, -, rfl⟩ | ⟨-, rfl⟩ | ⟨-, rfl⟩ | ⟨-, -, rfl⟩ | ⟨-, -, -, rfl⟩ | ⟨-, rfl⟩ | ⟨-, -, rfl⟩ <;> simp

theorem giveDelayDone_quantum (h : giveDelayDone s = some s') : s'.quantum = s.quantum := by
  obtain ⟨-, rfl⟩ := giveDelayDone_eq_some.mp h
  rfl

theorem MicroStep.quantum_eq {a : Agent} (h : MicroStep a s s') : s'.quantum = s.quantum := by
  cases h with
  | accept w _ => rw [latchWord_quantum, State.emitHost_quantum, State.consumeOffer_quantum]
  | host h => exact hostContinue_quantum h
  | strm h => exact strmMicro_quantum h
  | complete _ h => exact giveDelayDone_quantum h
  | takeSend w _ => rw [State.setTbPort_quantum, takeSend_quantum]
  | takeDelay n _ => rw [State.setTbPort_quantum, takeDelay_quantum]

theorem step_quantum {t : State} (h : step s = .next t) : t.quantum = s.quantum :=
  step_keeps (P := fun u => u.quantum = s.quantum) (fun hs => (State.atTurn_quantum s).trans hs)
    (fun _ _ hstep hu => hstep.quantum_eq.trans hu) h rfl

end Sys2Proof.Machine

namespace Sys2Proof

open Machine

/-- Settles O42: the two ranges of `Q` are the two branches of `State.configure`, and a step keeps `Q` because each
micro-step does. -/
theorem quantumIsStatic : Obligations.QuantumIsStatic := by
  unfold Obligations.QuantumIsStatic
  refine ⟨?legal, ?illegal, ?steps⟩
  case legal => exact fun n hpos hle => ⟨⟨n, hpos, hle⟩, rfl, configure_of_legal ⟨n, hpos, hle⟩⟩
  case illegal => exact fun n hn => configure_of_not_legal (by omega)
  case steps => exact fun _ _ h => step_quantum h

end Sys2Proof
end

section
/-! The invariant `Inv` (R13, R15, R20, R26, R28, R29): each micro-step keeps it, so each step does, and so it holds in every
reachable state. -/

namespace Sys2Proof.Machine

variable {s s' : State}

/-! ## What the clauses say about both agents -/

theorem LockOwned.not_held (h : LockOwned s) (hl : s.lock = .free) :
    s.hph.holdsLock = false ∧ s.sph.holdsLock = false := by
  obtain ⟨hhost, hstrm⟩ := h
  simp_all

theorem LockOwned.of_host (h : LockOwned s) (hp : s.hph.holdsLock = true) :
    s.lock = .host ∧ s.sph.holdsLock = false := by
  obtain ⟨hhost, hstrm⟩ := h
  simp_all

theorem LockOwned.of_strm (h : LockOwned s) (hp : s.sph.holdsLock = true) :
    s.lock = .strm ∧ s.hph.holdsLock = false := by
  obtain ⟨hhost, hstrm⟩ := h
  simp_all

/-- A command in hand in `H_ACQ` is legal: an update or a read. -/
theorem KindPlaced.upd_or_rd (h : KindPlaced s) (hp : s.hph = .acq) : s.hkind = .upd ∨ s.hkind = .rd := by
  obtain ⟨-, -, hlegal⟩ := h
  cases hk : s.hkind with
  | upd => exact .inl rfl
  | rd => exact .inr rfl
  | bad => exact absurd hk (hlegal (.inl hp))

/-- The boundary runs a delay only while the streamer waits for it. -/
theorem DelayPlaced.wait_of_running (h : DelayPlaced s) {n : TbdWord} (hn : s.tbPend = some n) : s.sph = .wait := by
  obtain ⟨-, hnone⟩ := h
  by_contra hp
  simp [hn] at hnone
  exact hp hnone

/-! ## The host engine's micro-steps

They touch neither the streamer nor the boundary, so only the record, the lock, the latch and the response are at stake. -/

/-- Latching a command in `H_IDLE`: a legal one waits for the lock, an illegal one is answered at once (R141). -/
theorem Inv.latch (h : Inv s) (hp : s.hph = .idle) (e : HostEvent) {k : HKind} {p : HPhase} (l : Levels)
    (hkp : k ≠ .bad ∧ p = .acq ∨ k = .bad ∧ p = .rsp) :
    Inv ((((s.consumeOffer.emitHost e).setHkind k).setHlv l).setHph p) := by
  have hlock : LockOwned s := h.lock
  have hshared := h.shared (by simp [hp])
  rcases hkp with ⟨hk, rfl⟩ | ⟨hk, rfl⟩ <;> exact { h with
    shared := fun _ => hshared
    lock := by simpa [LockOwned, hp, HPhase.holdsLock] using hlock
    kind := by simp [KindPlaced, hk]
    response := by simp [ResponseCurrent, hk] }

/-- H.ACCEPT (R141). -/
theorem Inv.accept (h : Inv s) (hp : s.hph = .idle) (w : HcWord) :
    Inv (latchWord w (s.consumeOffer.emitHost (.cmd w))) := by
  unfold latchWord
  split
  · exact h.latch hp (.cmd w) (unpackLevels (hcArg w)) (.inl ⟨by decide, rfl⟩)
  · split
    · exact h.latch (k := .rd) hp (.cmd w) s.hlv (.inl ⟨by decide, rfl⟩)
    · exact h.latch hp (.cmd w) s.hlv (.inr ⟨rfl, rfl⟩)

/-- H.ACQ (R142). -/
theorem Inv.hostAcquire (h : Inv s) (hp : s.hph = .acq) (hl : s.lock = .free) :
    Inv ((s.setLock .host).setHph (if s.hkind = .upd then .write else .copy)) := by
  obtain ⟨-, hstrm⟩ := h.lock.not_held hl
  have hshared := h.shared (by simp [hp])
  rcases h.kind.upd_or_rd hp with hk | hk <;> exact { h with
    shared := fun _ => hshared
    lock := by simp [LockOwned, HPhase.holdsLock, hstrm, hk]
    kind := by simp [KindPlaced, hk]
    response := by simp [ResponseCurrent, hk] }

/-- H.WRITE (R143): the sequence is stale from here to H.REFLECT. -/
theorem Inv.hostWrite (h : Inv s) (hp : s.hph = .write) : Inv ((s.setLevels s.hlv).setHph .reflect) where
  __ := h
  shared hne := absurd rfl hne
  lock := by simpa [LockOwned, hp, HPhase.holdsLock] using h.lock
  kind := by simpa [KindPlaced, hp] using h.kind
  response := by simp [ResponseCurrent]

/-- H.REFLECT (R144): the sequence is current again. -/
theorem Inv.hostReflect (h : Inv s) (hp : s.hph = .reflect) {q : Sequence} (hq : q = reflect s.levels) :
    Inv ((s.setSteps q).setHph .rel) := by
  obtain ⟨hsection, -⟩ := h.kind
  have hk : s.hkind = .upd := hsection (.inr hp)
  obtain ⟨hupd, -⟩ := h.response
  have hwritten : s.levels = s.hlv := hupd hk (.inl hp)
  exact { h with
    shared := fun _ => hq
    lock := by simpa [LockOwned, hp, HPhase.holdsLock] using h.lock
    kind := by simp [KindPlaced, hk]
    response := by simp [ResponseCurrent, hk, hwritten] }

/-- H.COPY (R145). -/
theorem Inv.hostCopy (h : Inv s) (hp : s.hph = .copy) : Inv ((s.setHbuf s.steps).setHph .rel) := by
  obtain ⟨-, hcopy, -⟩ := h.kind
  have hk : s.hkind = .rd := hcopy hp
  exact { h with
    shared := fun _ => h.shared (by simp [hp])
    lock := by simpa [LockOwned, hp, HPhase.holdsLock] using h.lock
    kind := by simp [KindPlaced, hk]
    response := by simp [ResponseCurrent, hk] }

/-- H.REL (R146). -/
theorem Inv.hostRelease (h : Inv s) (hp : s.hph = .rel) : Inv ((s.setLock .free).setHph .rsp) where
  __ := h
  shared _ := h.shared (by simp [hp])
  lock := by
    obtain ⟨-, hstrm⟩ := h.lock.of_host (by simp [hp, HPhase.holdsLock])
    simp [LockOwned, HPhase.holdsLock, hstrm]
  kind := by simp [KindPlaced]
  response := by simpa [ResponseCurrent, hp] using h.response

/-- H.RSP (R147). -/
theorem Inv.hostRespond (h : Inv s) (hp : s.hph = .rsp) (e : HostEvent) : Inv ((s.emitHost e).setHph .idle) where
  __ := h
  shared _ := h.shared (by simp [hp])
  lock := by simpa [LockOwned, hp, HPhase.holdsLock] using h.lock
  kind := by simp [KindPlaced]
  response := by simp [ResponseCurrent]

theorem Inv.hostContinue (h : Inv s) (hstep : hostContinue s = some s') : Inv s' := by
  rcases hostContinue_cases hstep with
    ⟨hp, hl, rfl⟩ | ⟨hp, rfl⟩ | ⟨hp, rfl⟩ | ⟨hp, rfl⟩ | ⟨hp, rfl⟩ | ⟨hp, -, rfl⟩
  · exact h.hostAcquire hp hl
  · exact h.hostWrite hp
  · exact h.hostReflect hp rfl
  · exact h.hostCopy hp
  · exact h.hostRelease hp
  · exact h.hostRespond hp _

/-! ## The streamer's micro-steps

They leave the record and the host engine alone, so only the lock, the index, the delay and the snapshot are at stake. -/

/-- S.ACQ (R111). -/
theorem Inv.strmAcquire (h : Inv s) (hp : s.sph = .acq) (hl : s.lock = .free) :
    Inv ((s.setLock .strm).setSph .copy) where
  __ := h
  lock := by
    obtain ⟨hhost, -⟩ := h.lock.not_held hl
    simp [LockOwned, SPhase.holdsLock, hhost]
  index := by simpa [IndexPlaced, hp, SPhase.betweenCycles] using h.index
  delay := by simpa [DelayPlaced, hp] using h.delay
  snap := by simp [SnapReflected]

/-- S.COPY (R112): the host engine is outside its section, so the sequence copied is `REFLECT` of the levels. -/
theorem Inv.strmCopy (h : Inv s) (hp : s.sph = .copy) : Inv ((s.setSnap s.steps).setSph .rel) where
  __ := h
  lock := by simpa [LockOwned, hp, SPhase.holdsLock] using h.lock
  index := by simpa [IndexPlaced, hp, SPhase.betweenCycles] using h.index
  delay := by simpa [DelayPlaced, hp] using h.delay
  snap _ _ := by
    obtain ⟨-, hhost⟩ := h.lock.of_strm (by simp [hp, SPhase.holdsLock])
    have hcurrent : s.hph ≠ .reflect := by rintro hr; simp [hr, HPhase.holdsLock] at hhost
    exact ⟨s.levels, h.shared hcurrent⟩

/-- S.REL (R113). -/
theorem Inv.strmRelease (h : Inv s) (hp : s.sph = .rel) : Inv ((s.setLock .free).setSph .step) where
  __ := h
  lock := by
    obtain ⟨-, hhost⟩ := h.lock.of_strm (by simp [hp, SPhase.holdsLock])
    simp [LockOwned, SPhase.holdsLock, hhost]
  index := by simp [IndexPlaced, SPhase.betweenCycles]
  delay := by simpa [DelayPlaced, hp] using h.delay
  snap := by simpa [SnapReflected, hp] using h.snap

/-- ADVANCE (R118) after a Step, with the delay over: from 8 back to 0 in `S_ACQ`, otherwise to the next Step. -/
theorem Inv.advance (h : Inv s) (hp : s.sph = .step ∨ s.sph = .wait) (e : List TbEvent) (hn : s.tbPend = none) :
    Inv { s with delayDone := false, tbTrace := e }.advance := by
  have hout : s.sph.holdsLock = false := by rcases hp with hp | hp <;> simp [hp, SPhase.holdsLock]
  obtain ⟨hhost, hstrm⟩ := h.lock
  rw [hout] at hstrm
  have hsnap : ∃ l, s.snap = reflect l := by rcases hp with hp | hp <;> exact h.snap (by simp [hp]) (by simp [hp])
  unfold State.advance
  split <;> exact { h with
    lock := ⟨hhost, hstrm⟩
    index := by simp [IndexPlaced, SPhase.betweenCycles]
    delay := by simp [DelayPlaced, hn]
    snap := fun _ _ => hsnap }

/-- S.SEND (R115): the Step in hand has a non-zero duration. -/
theorem Inv.strmSend (h : Inv s) (hp : s.sph = .step) (hd : s.durZero = false) (w : TbsWord) :
    Inv ((takeSend w s).setSph .dly) where
  __ := h
  lock := by simpa [LockOwned, hp, SPhase.holdsLock, takeSend] using h.lock
  index := ⟨by simp [SPhase.betweenCycles], fun _ => hd⟩
  delay := by simpa [DelayPlaced, hp, takeSend] using h.delay
  snap := by simpa [SnapReflected, hp, takeSend] using h.snap

/-- S.DLY (R116): the delay asked for runs. -/
theorem Inv.strmDelay (h : Inv s) (hp : s.sph = .dly) :
    Inv ((takeDelay (delayOperand s) s).setSph .wait) := by
  obtain ⟨-, heffective⟩ := h.index
  obtain ⟨-, hnone⟩ := h.delay
  obtain ⟨-, hdone⟩ := hnone (by simp [hp])
  exact { h with
    lock := by simpa [LockOwned, hp, SPhase.holdsLock, takeDelay] using h.lock
    index := ⟨by simp [SPhase.betweenCycles], fun _ => heffective (.inl hp)⟩
    delay := ⟨fun _ => .inl ⟨rfl, hdone⟩, fun hne => absurd rfl hne⟩
    snap := by simpa [SnapReflected, hp, takeDelay] using h.snap }

/-- S.SKIP (R114). -/
theorem Inv.strmSkip (h : Inv s) (hp : s.sph = .step) : Inv s.advance := by
  obtain ⟨-, hnone⟩ := h.delay
  obtain ⟨hpend, hdone⟩ := hnone (by simp [hp])
  have hsame : { s with delayDone := false, tbTrace := s.tbTrace } = s := by rw [← hdone]
  exact hsame ▸ h.advance (.inl hp) s.tbTrace hpend

/-- S.RESUME (R117). -/
theorem Inv.strmResume (h : Inv s) (hp : s.sph = .wait) (hdone : s.delayDone = true) :
    Inv ((s.setDelayDone false).emitTb .delayDone).advance := by
  obtain ⟨hwait, -⟩ := h.delay
  have hpend : s.tbPend = none := by simpa [hdone] using hwait hp
  exact h.advance (.inr hp) _ hpend

theorem Inv.strmMicro (h : Inv s) (hstep : strmMicro s = some s') : Inv s' := by
  rcases strmMicro_cases hstep with
    ⟨hp, hl, rfl⟩ | ⟨hp, rfl⟩ | ⟨hp, rfl⟩ | ⟨hp, -, rfl⟩ | ⟨hp, hd, -, rfl⟩ | ⟨hp, rfl⟩ | ⟨hp, hdone, rfl⟩
  · exact h.strmAcquire hp hl
  · exact h.strmCopy hp
  · exact h.strmRelease hp
  · exact h.strmSkip hp
  · exact h.strmSend hp hd _
  · exact h.strmDelay hp
  · exact h.strmResume hp hdone

/-! ## The boundary's completion, and the step -/

/-- The boundary's completion (R176): the `DELAY_DONE` takes the place of the delay that ran. -/
theorem Inv.complete (h : Inv s) (hstep : giveDelayDone s = some s') : Inv s' := by
  obtain ⟨⟨n, hn⟩, rfl⟩ := giveDelayDone_eq_some.mp hstep
  have hp : s.sph = .wait := h.delay.wait_of_running hn
  exact { h with delay := ⟨fun _ => .inr ⟨rfl, rfl⟩, fun hne => absurd hp hne⟩ }

/-- The boundary's two own requests need one standing on its port, and the invariant leaves none there. -/
theorem MicroStep.keeps_inv {a : Agent} (hstep : MicroStep a s s') (h : Inv s) : Inv s' := by
  cases hstep with
  | accept w hp => exact h.accept hp w
  | host hc => exact h.hostContinue hc
  | strm hm => exact h.strmMicro hm
  | complete _ hg => exact h.complete hg
  | takeSend w hport => simp [h.port] at hport
  | takeDelay n hport => simp [h.port] at hport

/-- No clause speaks of the inputs, the schedule or the count of turns. -/
theorem Inv.atTurn (h : Inv s) : Inv s.atTurn := { h with }

theorem Inv.step {t : State} (h : Inv s) (hstep : step s = .next t) : Inv t :=
  step_keeps Inv.atTurn (fun _ _ => MicroStep.keeps_inv) hstep h

/-! ## Runs from reset -/

theorem inv_resetWith (q : Quantum) (sched : List Turn) : Inv ((State.resetWith q).withTurns sched) where
  shared _ := rfl
  lock := ⟨⟨nofun, nofun⟩, nofun, nofun⟩
  index := ⟨fun _ => rfl, nofun⟩
  kind := ⟨nofun, nofun, nofun⟩
  delay := ⟨nofun, fun _ => ⟨rfl, rfl⟩⟩
  snap hne := absurd rfl hne
  response := ⟨nofun, nofun⟩
  port := rfl

/-- What every step keeps holds after every run that goes on. -/
theorem run_keeps {P : State → Prop} (keep : ∀ s t, step s = .next t → P s → P t) :
    ∀ (n : Nat) {s t : State}, Sys2Proof.core.run n s = .next t → P s → P t
  | 0, _, _, hrun, hs => by cases hrun; exact hs
  | n + 1, s, t, hrun, hs => by
    simp only [Host.Core.run] at hrun
    split at hrun
    · rename_i u hu
      exact run_keeps keep n hrun (keep s u hu hs)
    · cases hrun
    · cases hrun

theorem inv_of_run {q : Quantum} {sched : List Turn} {n : Nat}
    (hrun : Sys2Proof.core.run n ((State.resetWith q).withTurns sched) = .next s) : Inv s :=
  run_keeps (fun _ _ hstep h => Inv.step h hstep) n hrun (inv_resetWith q sched)

/-! ## The critical sections phase by phase -/

theorem HPhase.holdsLock_iff (p : HPhase) :
    p.holdsLock = true ↔ p = .write ∨ p = .reflect ∨ p = .copy ∨ p = .rel := by
  cases p <;> simp [HPhase.holdsLock]

theorem SPhase.holdsLock_iff (p : SPhase) : p.holdsLock = true ↔ p = .copy ∨ p = .rel := by
  cases p <;> simp [SPhase.holdsLock]

theorem SPhase.betweenCycles_iff (p : SPhase) : p.betweenCycles = true ↔ p = .acq ∨ p = .copy ∨ p = .rel := by
  cases p <;> simp [SPhase.betweenCycles]

theorem durZero_eq_false_iff (s : State) : s.durZero = false ↔ s.snap[s.idx].dur ≠ 0 := by
  simp [State.durZero, State.currentStep]

end Sys2Proof.Machine

namespace Sys2Proof

open Machine

/-- Settles O3: whatever its grain, a step is a chain of micro-steps, and each of them keeps every clause of `Inv`. -/
theorem stepKeepsInvariant : Obligations.StepKeepsInvariant := by
  unfold Obligations.StepKeepsInvariant
  exact fun _ _ h hstep => h.step hstep

/-- Settles O4: `Inv` holds in every reachable state, and R13, R28 and R29 are three of its clauses. -/
theorem reachableStatesCoherent : Obligations.ReachableStatesCoherent := by
  unfold Obligations.ReachableStatesCoherent
  intro q sched n s hrun
  have h : Inv s := inv_of_run hrun
  obtain ⟨hhost, hstrm⟩ := h.lock
  obtain ⟨hzero, heffective⟩ := h.index
  rw [HPhase.holdsLock_iff] at hhost
  rw [SPhase.holdsLock_iff] at hstrm
  rw [SPhase.betweenCycles_iff] at hzero
  rw [durZero_eq_false_iff] at heffective
  refine ⟨⟨h.shared, fun hr => hhost.mpr (.inr (.inl hr))⟩, ⟨hhost, hstrm, ?never⟩, ?bound, hzero, heffective⟩
  case never =>
    rintro ⟨hh, hs⟩
    have hboth := (hhost.mpr hh).symm.trans (hstrm.mpr hs)
    cases hboth
  case bound => exact Nat.lt_succ_iff.mp s.idx.isLt

end Sys2Proof
end

section
/-! The traces are written and never read (R27; log entry 5): from two states that differ in their traces alone, every operation leads to
two states that differ in their traces alone. -/

namespace Sys2Proof.Machine

/-- The two states agree on every field but the two traces. -/
def SameButTraces (s u : State) : Prop := ∃ h b, u = { s with hostTrace := h, tbTrace := b }

/-- The operation reads no trace. -/
def TraceBlind (f : State → State) : Prop := ∀ ⦃s u⦄, SameButTraces s u → SameButTraces (f s) (f u)

/-- The guarded operation reads no trace, and no trace decides whether it is enabled. -/
def TraceBlindGuarded (f : State → Option State) : Prop :=
  ∀ ⦃s u⦄, SameButTraces s u → Option.Rel SameButTraces (f s) (f u)

/-- Both outcomes are next states, which differ in their traces alone. -/
def SameOutcome (o o' : Host.Outcome State Fault Refusal) : Prop :=
  ∃ t t', o = .next t ∧ o' = .next t' ∧ SameButTraces t t'

variable {s u : State}

theorem SameOutcome.next (h : SameButTraces s u) : SameOutcome (.next s) (.next u) := ⟨s, u, rfl, rfl, h⟩

theorem TraceBlindGuarded.getD {f : State → Option State} (hf : TraceBlindGuarded f) (h : SameButTraces s u) :
    SameButTraces ((f s).getD s) ((f u).getD u) := by
  have hrel := hf h
  generalize f s = o, f u = o' at hrel
  cases hrel with
  | some hsu => exact hsu
  | none => exact h

theorem TraceBlindGuarded.map {f : State → Option State} {g : State → State} (hf : TraceBlindGuarded f) (hg : TraceBlind g)
    (h : SameButTraces s u) : Option.Rel SameButTraces ((f s).map g) ((f u).map g) := by
  have hrel := hf h
  generalize f s = o, f u = o' at hrel
  cases hrel with
  | some hsu => exact .some (hg hsu)
  | none => exact .none

/-! ## What the operations read -/

section Reads

variable (h : SameButTraces s u)
include h

theorem SameButTraces.hph : u.hph = s.hph := by obtain ⟨_, _, rfl⟩ := h; rfl
theorem SameButTraces.sph : u.sph = s.sph := by obtain ⟨_, _, rfl⟩ := h; rfl
theorem SameButTraces.idx : u.idx = s.idx := by obtain ⟨_, _, rfl⟩ := h; rfl
theorem SameButTraces.hkind : u.hkind = s.hkind := by obtain ⟨_, _, rfl⟩ := h; rfl
theorem SameButTraces.hbuf : u.hbuf = s.hbuf := by obtain ⟨_, _, rfl⟩ := h; rfl
theorem SameButTraces.inputs : u.inputs = s.inputs := by obtain ⟨_, _, rfl⟩ := h; rfl
theorem SameButTraces.tbPend : u.tbPend = s.tbPend := by obtain ⟨_, _, rfl⟩ := h; rfl
theorem SameButTraces.delayDone : u.delayDone = s.delayDone := by obtain ⟨_, _, rfl⟩ := h; rfl
theorem SameButTraces.lockFree : u.lockFree = s.lockFree := by obtain ⟨_, _, rfl⟩ := h; rfl
theorem SameButTraces.durZero : u.durZero = s.durZero := by obtain ⟨_, _, rfl⟩ := h; rfl
theorem SameButTraces.atStep (st : Step) : u.atStep st = s.atStep st := by obtain ⟨_, _, rfl⟩ := h; rfl
theorem SameButTraces.turn : u.turn = s.turn := by obtain ⟨_, _, rfl⟩ := h; rfl
theorem SameButTraces.fetch (t : Turn) : fetch t u = fetch t s := by obtain ⟨_, _, rfl⟩ := h; rfl

end Reads

/-! ## The named updates -/

theorem setHph_traceBlind (p : HPhase) : TraceBlind (State.setHph p) := by
  rintro s _ ⟨_, _, rfl⟩; exact ⟨_, _, rfl⟩
theorem setSph_traceBlind (p : SPhase) : TraceBlind (State.setSph p) := by
  rintro s _ ⟨_, _, rfl⟩; exact ⟨_, _, rfl⟩
theorem setTbPort_traceBlind (r : Option TbRequest) : TraceBlind (State.setTbPort r) := by
  rintro s _ ⟨_, _, rfl⟩; exact ⟨_, _, rfl⟩
theorem latchUpdate_traceBlind (l : Levels) : TraceBlind (State.latchUpdate l) := by
  rintro s _ ⟨_, _, rfl⟩; exact ⟨_, _, rfl⟩
theorem latchRead_traceBlind : TraceBlind State.latchRead := by rintro s _ ⟨_, _, rfl⟩; exact ⟨_, _, rfl⟩
theorem raiseIllegalCommand_traceBlind : TraceBlind State.raiseIllegalCommand := by
  rintro s _ ⟨_, _, rfl⟩; exact ⟨_, _, rfl⟩
theorem takeSend_traceBlind (w : TbsWord) : TraceBlind (takeSend w) := by rintro s _ ⟨_, _, rfl⟩; exact ⟨_, _, rfl⟩
theorem takeDelay_traceBlind (n : TbdWord) : TraceBlind (takeDelay n) := by rintro s _ ⟨_, _, rfl⟩; exact ⟨_, _, rfl⟩
theorem atTurn_traceBlind : TraceBlind State.atTurn := by rintro s _ ⟨_, _, rfl⟩; exact ⟨_, _, rfl⟩

theorem advance_traceBlind : TraceBlind State.advance := by
  intro s u h
  unfold State.advance
  rw [h.idx]
  obtain ⟨_, _, rfl⟩ := h
  split
  · exact ⟨_, _, rfl⟩
  · exact ⟨_, _, rfl⟩

theorem acquire_traceBlind (who : Lock) : TraceBlindGuarded (State.acquire who) := by
  intro s u h
  unfold State.acquire
  rw [h.lockFree]
  obtain ⟨_, _, rfl⟩ := h
  split
  · exact .some ⟨_, _, rfl⟩
  · exact .none

theorem giveDelayDone_traceBlind : TraceBlindGuarded giveDelayDone := by
  intro s u h
  unfold giveDelayDone
  rw [h.tbPend]
  obtain ⟨_, _, rfl⟩ := h
  cases s.tbPend with
  | some n => exact .some ⟨_, _, rfl⟩
  | none => exact .none

/-! ## The host engine -/

theorem acceptCommand_traceBlind (w : HcWord) {latch : State → State} (hl : TraceBlind latch) :
    TraceBlindGuarded (acceptCommand w latch) := by
  intro s u h
  unfold acceptCommand
  rw [h.hph]
  obtain ⟨_, _, rfl⟩ := h
  cases s.hph with
  | idle => exact .some (hl ⟨_, _, rfl⟩)
  | acq | write | reflect | copy | rel | rsp => exact .none

theorem latchWord_traceBlind (w : HcWord) : TraceBlind (latchWord w) := by
  intro s u h
  unfold latchWord
  split
  · exact latchUpdate_traceBlind _ h
  · split
    · exact latchRead_traceBlind h
    · exact raiseIllegalCommand_traceBlind h

theorem hAccept_traceBlind : TraceBlindGuarded hAccept := by
  intro s u h
  unfold hAccept
  rw [h.inputs]
  cases s.inputs.offer with
  | some w => exact acceptCommand_traceBlind w (latchWord_traceBlind w) h
  | none => exact .none

theorem hAcq_traceBlind : TraceBlindGuarded hAcq := by
  intro s u h
  unfold hAcq
  rw [h.hkind]
  cases s.hkind with
  | upd => exact (acquire_traceBlind .host).map (setHph_traceBlind .write) h
  | rd | bad => exact (acquire_traceBlind .host).map (setHph_traceBlind .copy) h

theorem hRsp_traceBlind : TraceBlindGuarded hRsp := by
  intro s u h
  unfold hRsp
  rw [h.inputs]
  obtain ⟨_, _, rfl⟩ := h
  split
  · exact .some ⟨_, _, rfl⟩
  · exact .none

theorem hostContinue_traceBlind : TraceBlindGuarded hostContinue := by
  intro s u h
  unfold hostContinue
  rw [h.hph]
  cases s.hph with
  | idle => exact .none
  | acq => exact hAcq_traceBlind h
  | rsp => exact hRsp_traceBlind h
  | write | reflect | copy | rel => obtain ⟨_, _, rfl⟩ := h; exact .some ⟨_, _, rfl⟩

theorem hostMicro_traceBlind : TraceBlindGuarded hostMicro := by
  intro s u h
  unfold hostMicro
  rw [h.hph]
  cases s.hph with
  | idle => exact hAccept_traceBlind h
  | acq | write | reflect | copy | rel | rsp => exact hostContinue_traceBlind h

theorem finishCommand_traceBlind (n : Nat) : TraceBlind (finishCommand n) := by
  induction n with
  | zero => exact fun _ _ h => h
  | succ n ih =>
    intro s u h
    unfold finishCommand
    have hrel := hostContinue_traceBlind h
    generalize hostContinue s = o, hostContinue u = o' at hrel ⊢
    cases hrel with
    | some hsu => exact ih hsu
    | none => exact h

theorem runCommand_traceBlind (w : HcWord) {latch : State → State} (hl : TraceBlind latch) :
    TraceBlind (runCommand w latch) := by
  intro s u h
  unfold runCommand
  have hrel := acceptCommand_traceBlind w hl h
  generalize acceptCommand w latch s = o, acceptCommand w latch u = o' at hrel ⊢
  cases hrel with
  | some hsu => exact finishCommand_traceBlind 5 hsu
  | none => exact h

theorem giveResponse_traceBlind (offered : Bool) : TraceBlind (giveResponse offered) := by
  intro s u h
  unfold giveResponse
  rw [h.hph]
  cases s.hph with
  | rsp =>
    cases offered with
    | true => exact hRsp_traceBlind.getD h
    | false => exact h
  | idle | acq | write | reflect | copy | rel => exact h

/-! ## The streamer -/

theorem sSkip_traceBlind : TraceBlindGuarded sSkip := by
  intro s u h
  unfold sSkip
  rw [h.durZero]
  split
  · exact .some (advance_traceBlind h)
  · exact .none

theorem sSend_traceBlind : TraceBlindGuarded sSend := by
  intro s u h
  unfold sSend
  rw [h.durZero, h.inputs]
  obtain ⟨_, _, rfl⟩ := h
  split
  · exact .none
  · split
    · exact .some ⟨_, _, rfl⟩
    · exact .none

theorem sDly_traceBlind : TraceBlindGuarded sDly := by
  rintro s _ ⟨_, _, rfl⟩
  exact .some ⟨_, _, rfl⟩

theorem sResume_traceBlind : TraceBlindGuarded sResume := by
  intro s u h
  unfold sResume
  rw [h.delayDone]
  obtain ⟨_, _, rfl⟩ := h
  split
  · exact .some (advance_traceBlind ⟨_, _, rfl⟩)
  · exact .none

theorem strmMicro_traceBlind : TraceBlindGuarded strmMicro := by
  intro s u h
  unfold strmMicro
  rw [h.sph, h.durZero]
  cases s.sph with
  | acq => exact (acquire_traceBlind .strm).map (setSph_traceBlind .copy) h
  | copy | rel => obtain ⟨_, _, rfl⟩ := h; exact .some ⟨_, _, rfl⟩
  | step =>
    cases s.durZero with
    | true => exact sSkip_traceBlind h
    | false => exact sSend_traceBlind h
  | dly => exact sDly_traceBlind h
  | wait => exact sResume_traceBlind h

theorem delayDoneNow_traceBlind : TraceBlind delayDoneNow := by
  intro s u h
  unfold delayDoneNow
  rw [h.inputs]
  split
  · exact giveDelayDone_traceBlind.getD h
  · exact h

theorem finishEmit_traceBlind : TraceBlind finishEmit := by
  intro s u h
  unfold finishEmit
  rw [h.sph]
  cases s.sph with
  | dly => exact sResume_traceBlind.getD (delayDoneNow_traceBlind (sDly_traceBlind.getD h))
  | wait => exact sResume_traceBlind.getD (delayDoneNow_traceBlind h)
  | acq | copy | rel | step => exact h

theorem runEmit_traceBlind : TraceBlind runEmit := by
  intro s u h
  unfold runEmit
  have hrel := sSend_traceBlind h
  generalize sSend s = o, sSend u = o' at hrel ⊢
  cases hrel with
  | some hsu => exact finishEmit_traceBlind hsu
  | none => exact h

theorem runSnapshot_traceBlind (n : Nat) : TraceBlind (runSnapshot n) := by
  induction n with
  | zero => exact fun _ _ h => h
  | succ n ih =>
    intro s u h
    unfold runSnapshot
    rw [h.sph]
    have hrel := strmMicro_traceBlind h
    generalize strmMicro s = o, strmMicro u = o' at hrel ⊢
    cases s.sph with
    | acq | copy | rel =>
      cases hrel with
      | some hsu => exact ih hsu
      | none => exact h
    | step | dly | wait => exact h

/-! ## Instructions, turns and steps -/

/-- Every instruction has a next state, and reads no trace on the way to it. -/
theorem exec_sameOutcome (h : SameButTraces s u) (i : Instr) : SameOutcome (exec i s) (exec i u) := by
  cases i with
  | updateLevels l => exact .next (runCommand_traceBlind _ (latchUpdate_traceBlind l) h)
  | readSnapshot => exact .next (runCommand_traceBlind _ latchRead_traceBlind h)
  | illegalOp00 _ | illegalOp11 _ | illegalRdArg _ =>
    exact .next (runCommand_traceBlind _ raiseIllegalCommand_traceBlind h)
  | ack | err =>
    refine .next ?_
    rw [h.hkind]
    exact giveResponse_traceBlind _ h
  | data steps =>
    refine .next ?_
    rw [h.hkind, h.hbuf]
    exact giveResponse_traceBlind _ h
  | skip mask =>
    refine .next ?_
    rw [h.atStep]
    split
    · exact sSkip_traceBlind.getD h
    · exact h
  | emit mask dur =>
    refine .next ?_
    rw [h.atStep]
    split
    · exact runEmit_traceBlind h
    · exact h
  | send w =>
    refine .next ?_
    rw [h.inputs]
    split
    · exact takeSend_traceBlind w h
    · exact h
  | delay n => exact .next (takeDelay_traceBlind n h)

theorem settle_traceBlind (a : Agent) (i : Instr) : TraceBlind (settle a i) := by
  intro s u h
  cases a with
  | host => exact h
  | strm =>
    cases i with
    | send _ => exact setSph_traceBlind .dly h
    | delay _ => exact setSph_traceBlind .wait h
    | updateLevels _ | readSnapshot | illegalOp00 _ | illegalOp11 _ | illegalRdArg _ => exact h
    | ack | data _ | err | skip _ | emit _ _ => exact h
  | boundary => exact setTbPort_traceBlind none h

theorem silentHost_traceBlind (g : Grain) : TraceBlind (silentHost g) := by
  intro s u h
  cases g with
  | micro => exact hostMicro_traceBlind.getD h
  | whole => exact finishCommand_traceBlind 5 h

theorem silentStreamer_traceBlind (g : Grain) : TraceBlind (silentStreamer g) := by
  intro s u h
  cases g with
  | micro => exact strmMicro_traceBlind.getD h
  | whole =>
    simp only [silentStreamer, h.sph]
    cases s.sph with
    | acq | copy | rel => exact runSnapshot_traceBlind 3 h
    | step | dly | wait => exact finishEmit_traceBlind h

theorem silentTurn_traceBlind (t : Turn) : TraceBlind (silentTurn t) := by
  intro s u h
  unfold silentTurn
  cases t.agent with
  | host => exact silentHost_traceBlind t.grain h
  | strm => exact silentStreamer_traceBlind t.grain h
  | boundary => exact giveDelayDone_traceBlind.getD h

theorem runTurn_sameOutcome (h : SameButTraces s u) (t : Turn) : SameOutcome (runTurn t s) (runTurn t u) := by
  unfold runTurn
  rw [h.fetch t]
  cases fetch t s with
  | none => exact .next (silentTurn_traceBlind t h)
  | some i =>
    obtain ⟨v, v', hv, hv', hsame⟩ := exec_sameOutcome h i
    simp only [hv, hv']
    exact .next (settle_traceBlind t.agent i hsame)

theorem step_sameOutcome (h : SameButTraces s u) : SameOutcome (step s) (step u) := by
  unfold step
  rw [h.turn]
  exact runTurn_sameOutcome (atTurn_traceBlind h) s.turn

end Sys2Proof.Machine

namespace Sys2Proof

open Machine

/-- Settles O40: a step is made of operations that read no trace, so two states that differ in their traces alone step alike. -/
theorem tracesAreNotRead : Obligations.TracesAreNotRead := by
  unfold Obligations.TracesAreNotRead
  intro s t t' hostTrace tbTrace ht ht'
  obtain ⟨v, v', hv, hv', hsame⟩ := step_sameOutcome (s := s) ⟨hostTrace, tbTrace, rfl⟩
  rw [ht] at hv
  rw [ht'] at hv'
  cases hv
  cases hv'
  obtain ⟨_, _, rfl⟩ := hsame
  rfl

end Sys2Proof
end

section
/-! One-micro-step turns: what such a turn does, for each agent, and that it is at most one `MicroStep`. -/

namespace Sys2Proof.Machine

/-- The boundary's own step: a request standing on its port first (log entry 17), otherwise its completion (R176). -/
def boundaryMicro (s : State) : Option State :=
  match s.tbPort with
  | some (.send w) => if s.inputs.tbReady then some ((takeSend w s).setTbPort none) else giveDelayDone s
  | some (.delay n) => some ((takeDelay n s).setTbPort none)
  | none => giveDelayDone s

/-- The micro-step that a turn of the agent can take now. -/
def agentMicro : Agent → State → Option State
  | .host => hostMicro
  | .strm => strmMicro
  | .boundary => boundaryMicro

/-- A one-micro-step turn whose inputs are sampled: the agent's micro-step, or nothing where it waits (R192). -/
def microTurn (a : Agent) (s : State) : State := (agentMicro a s).getD s

variable {s s' : State}

/-! ## A turn of grain `micro` is `microTurn` -/

/-- In `H_RSP` a turn of the host engine, of either grain, is H.RSP (R147). -/
theorem runTurn_host_of_rsp (g : Grain) (i : Inputs) (hp : s.hph = .rsp) :
    runTurn ⟨.host, g, i⟩ s = .next ((hRsp s).getD s) := by
  cases hr : s.inputs.hostReady with
  | false =>
    cases g <;>
      simp [runTurn, fetch, fetchHost, silentTurn, silentHost, hostMicro, finishCommand, hostContinue, hRsp, hp, hr]
  | true =>
    cases hk : s.hkind <;>
      simp [runTurn, fetch, fetchHost, responseWord, decodeResponse, Except.toOption, hp, hr, hk] <;>
      simp [exec, execAck, execData, execErr, giveResponse, settle, hp, hk]

theorem runTurn_host_micro (i : Inputs) (s : State) : runTurn ⟨.host, .micro, i⟩ s = .next (microTurn .host s) := by
  cases hp : s.hph with
  | rsp => simp [runTurn_host_of_rsp .micro i hp, microTurn, agentMicro, hostMicro, hostContinue, hp]
  | idle | acq | write | reflect | copy | rel =>
    simp [runTurn, fetch, fetchHost, silentTurn, silentHost, microTurn, agentMicro, hp]

/-- In `S_STEP` at a Step of duration 0 a turn of the streamer, of either grain, is S.SKIP (R114). -/
theorem runTurn_strm_skip (g : Grain) (i : Inputs) (hp : s.sph = .step) (hd : s.durZero = true) :
    runTurn ⟨.strm, g, i⟩ s = .next s.advance := by
  have hat : s.atStep ⟨s.currentStep.mask, 0#8⟩ = true := by
    have hdur : s.currentStep.dur = 0#8 := by simpa [State.durZero] using hd
    simp [State.atStep, hp, ← hdur]
  have hfetch : fetchStreamer g s = some (.skip s.currentStep.mask) := by
    cases g <;> simp [fetchStreamer, decodeStepWord_current, hp, hd]
  simp [runTurn, fetch, hfetch, exec, execSkip, settle, settleStreamer, hat, sSkip, hd]

theorem runTurn_strm_micro (i : Inputs) (s : State) : runTurn ⟨.strm, .micro, i⟩ s = .next (microTurn .strm s) := by
  cases hp : s.sph with
  | acq | copy | rel | wait =>
    simp [runTurn, fetch, fetchStreamer, silentTurn, silentStreamer, microTurn, agentMicro, hp]
  | dly =>
    simp [runTurn, fetch, fetchStreamer, decodeDelay, exec, execDelay, settle, settleStreamer, microTurn, agentMicro,
      strmMicro, sDly, hp]
  | step =>
    cases hd : s.durZero with
    | true =>
      simp [runTurn_strm_skip .micro i hp hd, microTurn, agentMicro, strmMicro, sSkip, hp, hd]
    | false =>
      cases hr : s.inputs.tbReady <;>
      simp [runTurn, fetch, fetchStreamer, hp, hd, hr, decodeSend, exec, execSend, settle, settleStreamer, microTurn,
        agentMicro, strmMicro, sSend, silentTurn, silentStreamer]

theorem runTurn_boundary (g : Grain) (i : Inputs) (s : State) :
    runTurn ⟨.boundary, g, i⟩ s = .next (microTurn .boundary s) := by
  cases hq : s.tbPort with
  | none => simp [runTurn, fetch, fetchBoundary, silentTurn, microTurn, agentMicro, boundaryMicro, hq]
  | some r =>
    cases r with
    | delay n =>
      simp [runTurn, fetch, fetchBoundary, decodeDelay, exec, execDelay, settle, microTurn, agentMicro, boundaryMicro, hq]
    | send w =>
      cases hr : s.inputs.tbReady <;>
      simp [runTurn, fetch, fetchBoundary, decodeSend, exec, execSend, settle, silentTurn, microTurn, agentMicro,
        boundaryMicro, hq, hr]

theorem runTurn_of_micro {t : Turn} (hg : t.grain = .micro) (s : State) :
    runTurn t s = .next (microTurn t.agent s) := by
  obtain ⟨a, g, i⟩ := t
  cases hg
  cases a with
  | host => exact runTurn_host_micro i s
  | strm => exact runTurn_strm_micro i s
  | boundary => exact runTurn_boundary .micro i s

theorem step_of_micro (hg : s.turn.grain = .micro) : step s = .next (microTurn s.turn.agent s.atTurn) :=
  runTurn_of_micro hg s.atTurn

/-! ## `microTurn` is at most one `MicroStep` -/

theorem MicroStep.of_hostMicro (h : hostMicro s = some s') : MicroStep .host s s' := by
  unfold hostMicro at h
  split at h
  next hp =>
    unfold hAccept at h
    split at h
    · obtain ⟨-, rfl⟩ := acceptCommand_eq_some.mp h
      exact .accept _ hp
    · cases h
  all_goals exact .host h

theorem MicroStep.of_boundaryMicro (h : boundaryMicro s = some s') : MicroStep .boundary s s' := by
  unfold boundaryMicro at h
  split at h
  next w hq =>
    split at h
    · cases h; exact .takeSend w hq
    · exact .complete (by decide) h
  next n hq => cases h; exact .takeDelay n hq
  next => exact .complete (by decide) h

theorem MicroStep.of_agentMicro {a : Agent} (h : agentMicro a s = some s') : MicroStep a s s' := by
  cases a with
  | host => exact .of_hostMicro h
  | strm => exact .strm h
  | boundary => exact .of_boundaryMicro h

/-- A property that the waiting state has, and that one micro-step of the agent leads to, holds after a one-micro-step turn. -/
theorem microTurn_induct {P : State → Prop} (a : Agent) (wait : P s) (take : ∀ s', MicroStep a s s' → P s') :
    P (microTurn a s) := by
  unfold microTurn
  cases h : agentMicro a s with
  | none => exact wait
  | some s' => exact take s' (.of_agentMicro h)

/-! ## Which micro-step writes which register (R43) -/

/-- The registers that differ between `s` and `t` are among those that a micro-step of agent `a` in the phases of `s` may write. -/
structure WritesOnly (a : Agent) (s t : State) : Prop where
  levels : t.levels ≠ s.levels → a = .host ∧ s.hph = .write
  steps : t.steps ≠ s.steps → a = .host ∧ s.hph = .reflect
  lock : t.lock ≠ s.lock → a = .host ∧ (s.hph = .acq ∨ s.hph = .rel) ∨ a = .strm ∧ (s.sph = .acq ∨ s.sph = .rel)
  sph : t.sph ≠ s.sph → a = .strm
  idx : t.idx ≠ s.idx → a = .strm ∧ (s.sph = .step ∨ s.sph = .wait)
  snap : t.snap ≠ s.snap → a = .strm ∧ s.sph = .copy
  hph : t.hph ≠ s.hph → a = .host
  latch : t.hkind ≠ s.hkind ∨ t.hlv ≠ s.hlv → a = .host ∧ s.hph = .idle
  hbuf : t.hbuf ≠ s.hbuf → a = .host ∧ s.hph = .copy

/-- A micro-step that keeps the block's ten registers writes none of them. -/
theorem WritesOnly.of_toBlock_eq {a : Agent} (h : s'.toBlock = s.toBlock) : WritesOnly a s s' := by
  constructor <;> simp [h]

theorem latchWord_writes (w : HcWord) (hp : s.hph = .idle) :
    WritesOnly .host s (latchWord w (s.consumeOffer.emitHost (.cmd w))) := by
  unfold latchWord
  split
  · constructor <;> simp [State.latchUpdate, hp]
  · split
    · constructor <;> simp [State.latchRead, hp]
    · constructor <;> simp [State.raiseIllegalCommand, hp]

theorem hostContinue_writes (h : hostContinue s = some s') : WritesOnly .host s s' := by
  rcases hostContinue_cases h with
    ⟨hp, -, rfl⟩ | ⟨hp, rfl⟩ | ⟨hp, rfl⟩ | ⟨hp, rfl⟩ | ⟨hp, rfl⟩ | ⟨hp, -, rfl⟩
  all_goals constructor <;> simp [hp]

theorem advance_writes (hp : s.sph = .step ∨ s.sph = .wait) (d : Bool) (e : List TbEvent) :
    WritesOnly .strm s { s with delayDone := d, tbTrace := e }.advance := by
  unfold State.advance
  split
  all_goals constructor <;> simp [hp]

theorem strmMicro_writes (h : strmMicro s = some s') : WritesOnly .strm s s' := by
  rcases strmMicro_cases h with
    ⟨hp, -, rfl⟩ | ⟨hp, rfl⟩ | ⟨hp, rfl⟩ | ⟨hp, -, rfl⟩ | ⟨hp, -, -, rfl⟩ | ⟨hp, rfl⟩ | ⟨hp, -, rfl⟩
  case inr.inr.inr.inl => exact advance_writes (.inl hp) s.delayDone s.tbTrace
  case inr.inr.inr.inr.inr.inr => exact advance_writes (.inr hp) false _
  all_goals constructor <;> simp [hp, takeSend, takeDelay]

theorem MicroStep.writes {a : Agent} (h : MicroStep a s s') : WritesOnly a s s' := by
  cases h with
  | accept w hp => exact latchWord_writes w hp
  | host h => exact hostContinue_writes h
  | strm h => exact strmMicro_writes h
  | complete _ h =>
    obtain ⟨-, rfl⟩ := giveDelayDone_eq_some.mp h
    exact .of_toBlock_eq rfl
  | takeSend w _ => exact .of_toBlock_eq rfl
  | takeDelay n _ => exact .of_toBlock_eq rfl

theorem microTurn_writes (a : Agent) (s : State) : WritesOnly a s (microTurn a s) :=
  microTurn_induct a (.of_toBlock_eq rfl) fun _ h => h.writes

end Sys2Proof.Machine

namespace Sys2Proof

open Machine

/-- Settles O43: a one-micro-step turn is at most one micro-step of its agent, and each writes only the registers of its phase. -/
theorem microStepWrites : Obligations.MicroStepWrites := by
  unfold Obligations.MicroStepWrites
  intro s t hg h
  rw [step_of_micro hg] at h
  cases h
  have hw : WritesOnly s.turn.agent s (microTurn s.turn.agent s.atTurn) := { microTurn_writes s.turn.agent s.atTurn with }
  exact ⟨hw.levels, hw.steps, hw.lock, hw.sph, hw.idx, hw.snap, hw.hph, hw.latch, hw.hbuf⟩

end Sys2Proof
end

section
/-! The frame of the host engine's turn (R55, R194): it touches neither the streamer's registers, nor the boundary, nor `Q`. -/

namespace Sys2Proof.Machine

/-- What a turn of the host engine leaves alone: `SNAP`, `IDX`, `SPH`, the boundary with its port and trace, and `Q`. -/
def State.outsideHost (s : State) :
    (Sequence × StepIndex × SPhase) × Boundary × Option TbRequest × List TbEvent × Quantum :=
  ((s.snap, s.idx, s.sph), s.toBoundary, s.tbPort, s.tbTrace, s.quantum)

variable {s s' : State}

@[simp] theorem latchWord_outsideHost (w : HcWord) (s : State) : (latchWord w s).outsideHost = s.outsideHost := by
  unfold latchWord
  split
  · rfl
  · split
    · rfl
    · rfl

theorem hostContinue_outsideHost (h : hostContinue s = some s') : s'.outsideHost = s.outsideHost := by
  rcases hostContinue_cases h with ⟨-, -, rfl⟩ | ⟨-, rfl⟩ | ⟨-, rfl⟩ | ⟨-, rfl⟩ | ⟨-, rfl⟩ | ⟨-, -, rfl⟩ <;> rfl

theorem MicroStep.outsideHost_eq (h : MicroStep .host s s') : s'.outsideHost = s.outsideHost := by
  cases h with
  | accept w _ => exact latchWord_outsideHost w _
  | host h => exact hostContinue_outsideHost h
  | complete ha _ => exact absurd rfl ha

theorem step_outsideHost {t : State} (ha : s.turn.agent = .host) (h : step s = .next t) :
    t.outsideHost = s.outsideHost :=
  step_keeps (P := fun u => u.outsideHost = s.outsideHost) (fun _ => rfl)
    (fun _ _ hm hu => (MicroStep.outsideHost_eq (ha ▸ hm)).trans hu) h rfl

end Sys2Proof.Machine

namespace Sys2Proof

open Machine

/-- Settles O36: a turn of the host engine is a chain of its micro-steps, none of which touches what is outside it. -/
theorem hostTurnFrame : Obligations.HostTurnFrame := by
  unfold Obligations.HostTurnFrame
  intro s t ha h
  have hout := step_outsideHost ha h
  simp only [State.outsideHost, Prod.mk.injEq] at hout
  obtain ⟨⟨hsnap, hidx, hsph⟩, hboundary, hport, htrace, hquantum⟩ := hout
  have hlast := congrArg Boundary.lastWord hboundary
  have hpend := congrArg Boundary.tbPend hboundary
  have hdone := congrArg Boundary.delayDone hboundary
  exact ⟨hsnap, hidx, hsph, hlast, hpend, hdone, hport, htrace, hquantum⟩

end Sys2Proof
end

section
/-! Critical sections are short (R48, R151): from each phase that holds the lock, a fixed number of micro-step turns of its agent reaches the
release, and the turns left over are too few to take the lock again. -/

namespace Sys2Proof.Machine

variable {s s' : State}

/-! ## Runs of one-micro-step turns of one agent -/

@[simp] theorem latchWord_sched (w : HcWord) (s : State) : (latchWord w s).sched = s.sched := by
  unfold latchWord
  split
  · rfl
  · split
    · rfl
    · rfl

@[simp] theorem takeSend_sched (w : TbsWord) (s : State) : (takeSend w s).sched = s.sched := rfl

@[simp] theorem takeDelay_sched (n : TbdWord) (s : State) : (takeDelay n s).sched = s.sched := rfl

@[simp] theorem State.advance_sched (s : State) : s.advance.sched = s.sched := by
  unfold State.advance
  split
  · rfl
  · rfl

theorem MicroStep.sched_eq {a : Agent} (h : MicroStep a s s') : s'.sched = s.sched := by
  cases h with
  | accept w _ => exact latchWord_sched w _
  | host h =>
    rcases hostContinue_cases h with ⟨-, -, rfl⟩ | ⟨-, rfl⟩ | ⟨-, rfl⟩ | ⟨-, rfl⟩ | ⟨-, rfl⟩ | ⟨-, -, rfl⟩ <;> rfl
  | strm h =>
    rcases strmMicro_cases h with
      ⟨-, -, rfl⟩ | ⟨-, rfl⟩ | ⟨-, rfl⟩ | ⟨-, -, rfl⟩ | ⟨-, -, -, rfl⟩ | ⟨-, rfl⟩ | ⟨-, -, rfl⟩ <;> simp
  | complete _ h =>
    obtain ⟨-, rfl⟩ := giveDelayDone_eq_some.mp h
    rfl
  | takeSend w _ => rfl
  | takeDelay n _ => rfl

@[simp] theorem microTurn_sched (a : Agent) (s : State) : (microTurn a s).sched = s.sched :=
  microTurn_induct (P := fun u => u.sched = s.sched) a rfl fun _ h => h.sched_eq

theorem run_of_step {t : State} (n : Nat) (h : step s = .next t) :
    Sys2Proof.core.run (n + 1) s = Sys2Proof.core.run n t := by
  have hcore : Sys2Proof.core.step s = .next t := h
  simp only [Host.Core.run]
  rw [hcore]

/-- A run that begins with a one-micro-step turn. -/
theorem run_microTurn {t : Turn} {ts : List Turn} (n : Nat) (hs : s.sched = t :: ts) (hg : t.grain = .micro) :
    Sys2Proof.core.run (n + 1) s = Sys2Proof.core.run n (microTurn t.agent (s.beginTurn t.inputs ts)) := by
  have hturn : s.turn = t := by simp [State.turn, hs]
  have hat : s.atTurn = s.beginTurn t.inputs ts := by rw [State.atTurn, hturn, hs, List.tail_cons]
  have hstep := step_of_micro (s := s) (by rw [hturn, hg])
  rw [hturn, hat] at hstep
  exact run_of_step n hstep

/-- The state after one-micro-step turns of agent `a`, one for each entry of `is` (what the outside does at it). -/
def microTurns (a : Agent) : List Inputs → State → State
  | [], s => s
  | i :: is, s => microTurns a is (microTurn a (s.beginTurn i (is.map fun j => ⟨a, .micro, j⟩)))

theorem run_microTurns (a : Agent) (is : List Inputs) (hs : s.sched = is.map fun j => ⟨a, .micro, j⟩) :
    Sys2Proof.core.run is.length s = .next (microTurns a is s) := by
  induction is generalizing s with
  | nil => rfl
  | cons i is ih =>
    rw [List.map_cons] at hs
    rw [List.length_cons, run_microTurn _ hs rfl, microTurns]
    exact ih (by simp)

/-! ## The host engine's section -/

theorem microTurn_host_of_write (hp : s.hph = .write) :
    microTurn .host s = (s.setLevels s.hlv).setHph .reflect := by
  simp [microTurn, agentMicro, hostMicro, hostContinue, hWrite, hp]

theorem microTurn_host_of_reflect (hp : s.hph = .reflect) :
    microTurn .host s = (s.setSteps (reflect s.levels)).setHph .rel := by
  simp [microTurn, agentMicro, hostMicro, hostContinue, hReflect, hp]

theorem microTurn_host_of_copy (hp : s.hph = .copy) : microTurn .host s = (s.setHbuf s.steps).setHph .rel := by
  simp [microTurn, agentMicro, hostMicro, hostContinue, hCopy, hp]

theorem microTurn_host_of_rel (hp : s.hph = .rel) : microTurn .host s = (s.setLock .free).setHph .rsp := by
  simp [microTurn, agentMicro, hostMicro, hostContinue, hRel, State.release, hp]

/-- After H.RSP or its wait the engine does not yet want the lock again. -/
theorem microTurn_host_of_rsp (hp : s.hph = .rsp) : (microTurn .host s).hph ≠ .acq := by
  cases hr : s.inputs.hostReady <;> simp [microTurn, agentMicro, hostMicro, hostContinue, hRsp, hp, hr]

/-- Only H.ACQ takes the lock for the host engine (R47). -/
theorem microTurn_host_lock_free (hl : s.lock = .free) (hp : s.hph ≠ .acq) : (microTurn .host s).lock = .free := by
  by_contra hne
  rcases (microTurn_writes .host s).lock (by rwa [hl]) with ⟨-, hacq | hrel⟩ | ⟨hagent, -⟩
  · exact hp hacq
  · simp [microTurn_host_of_rel hrel] at hne
  · cases hagent

/-- Two turns after the release are too few to want the lock and take it: the engine answers, or waits, and then at most latches a
new command. -/
theorem microTurns_host_of_rsp (hl : s.lock = .free) (hp : s.hph = .rsp) :
    ∀ is : List Inputs, is.length ≤ 2 → (microTurns .host is s).lock = .free
  | [], _ => hl
  | [_], _ => microTurn_host_lock_free hl (by simp [hp])
  | [_, _], _ => microTurn_host_lock_free (microTurn_host_lock_free hl (by simp [hp])) (microTurn_host_of_rsp hp)

theorem microTurns_host_of_rel (hp : s.hph = .rel) (i : Inputs) {is : List Inputs} (hlen : is.length ≤ 2) :
    (microTurns .host (i :: is) s).lock = .free := by
  rw [microTurns, microTurn_host_of_rel (s := s.beginTurn _ _) hp]
  exact microTurns_host_of_rsp rfl rfl is hlen

theorem microTurns_host_of_reflect (hp : s.hph = .reflect) (i j : Inputs) {is : List Inputs} (hlen : is.length ≤ 2) :
    (microTurns .host (i :: j :: is) s).lock = .free := by
  rw [microTurns, microTurn_host_of_reflect (s := s.beginTurn _ _) hp]
  exact microTurns_host_of_rel rfl j hlen

theorem microTurns_host_of_copy (hp : s.hph = .copy) (i j : Inputs) {is : List Inputs} (hlen : is.length ≤ 2) :
    (microTurns .host (i :: j :: is) s).lock = .free := by
  rw [microTurns, microTurn_host_of_copy (s := s.beginTurn _ _) hp]
  exact microTurns_host_of_rel rfl j hlen

theorem microTurns_host_of_write (hp : s.hph = .write) (i j k : Inputs) :
    (microTurns .host [i, j, k] s).lock = .free := by
  rw [microTurns, microTurn_host_of_write (s := s.beginTurn _ _) hp]
  exact microTurns_host_of_reflect rfl j k (by simp)

theorem microTurns_host_lock_free (first second third : Inputs) (hp : s.hph.holdsLock = true) :
    (microTurns .host [first, second, third] s).lock = .free := by
  rcases (HPhase.holdsLock_iff s.hph).mp hp with hp | hp | hp | hp
  · exact microTurns_host_of_write hp first second third
  · exact microTurns_host_of_reflect hp first second (by simp)
  · exact microTurns_host_of_copy hp first second (by simp)
  · exact microTurns_host_of_rel hp first (by simp)

/-! ## The streamer's section -/

theorem microTurn_strm_of_copy (hp : s.sph = .copy) : microTurn .strm s = (s.setSnap s.steps).setSph .rel := by
  simp [microTurn, agentMicro, strmMicro, sCopy, hp]

theorem microTurn_strm_of_rel (hp : s.sph = .rel) : microTurn .strm s = (s.setLock .free).setSph .step := by
  simp [microTurn, agentMicro, strmMicro, sRel, State.release, hp]

/-- Only S.ACQ takes the lock for the streamer (R47). -/
theorem microTurn_strm_lock_free (hl : s.lock = .free) (hp : s.sph ≠ .acq) : (microTurn .strm s).lock = .free := by
  by_contra hne
  rcases (microTurn_writes .strm s).lock (by rwa [hl]) with ⟨hagent, -⟩ | ⟨-, hacq | hrel⟩
  · cases hagent
  · exact hp hacq
  · simp [microTurn_strm_of_rel hrel] at hne

theorem microTurns_strm_lock_free (first second : Inputs) (hp : s.sph.holdsLock = true) :
    (microTurns .strm [first, second] s).lock = .free := by
  rcases (SPhase.holdsLock_iff s.sph).mp hp with hp | hp
  · rw [microTurns, microTurn_strm_of_copy (s := s.beginTurn _ _) hp, microTurns, microTurn_strm_of_rel rfl]
    rfl
  · rw [microTurns, microTurn_strm_of_rel (s := s.beginTurn _ _) hp]
    exact microTurn_strm_lock_free rfl (by simp)

end Sys2Proof.Machine

namespace Sys2Proof

open Machine

/-- Settles O45: the lock's owner is in a phase of its section, and from each of them the turns given reach the release. -/
theorem lockHeldBriefly : Obligations.LockHeldBriefly := by
  unfold Obligations.LockHeldBriefly
  intro s first second third h
  obtain ⟨hhost, hstrm⟩ := h.lock
  refine ⟨fun hl => ⟨_, run_microTurns .host [first, second, third] rfl, ?host⟩,
    fun hl => ⟨_, run_microTurns .strm [first, second] rfl, ?strm⟩⟩
  case host => exact microTurns_host_lock_free first second third (hhost.mp hl)
  case strm => exact microTurns_strm_lock_free first second (hstrm.mp hl)

end Sys2Proof
end

section
/-! What the streamer's turn does not read (R51, R194): the levels, the host engine's registers, the offer to it, and the schedule. Every
operation of the streamer and the boundary commutes with replacing them all at once; that it does not write them follows. -/

namespace Sys2Proof.Machine

/-- `s` with what the streamer and the boundary do not read taken from `r`. -/
def State.withHostSide (s r : State) : State :=
  { s with
    levels := r.levels, hlv := r.hlv, hbuf := r.hbuf, hkind := r.hkind, hph := r.hph,
    inputs := { s.inputs with offer := r.inputs.offer }, sched := r.sched, turnNo := r.turnNo }

theorem State.withHostSide_self (s : State) : s.withHostSide s = s := rfl

/-! ## What is read of a state does not depend on the host's side -/

section Reads

variable (s r : State)

@[simp] theorem State.withHostSide_sph : (s.withHostSide r).sph = s.sph := rfl
@[simp] theorem State.withHostSide_idx : (s.withHostSide r).idx = s.idx := rfl
@[simp] theorem State.withHostSide_lockFree : (s.withHostSide r).lockFree = s.lockFree := rfl
@[simp] theorem State.withHostSide_durZero : (s.withHostSide r).durZero = s.durZero := rfl
@[simp] theorem State.withHostSide_tbPend : (s.withHostSide r).tbPend = s.tbPend := rfl
@[simp] theorem State.withHostSide_delayDone : (s.withHostSide r).delayDone = s.delayDone := rfl
@[simp] theorem State.withHostSide_tbPort : (s.withHostSide r).tbPort = s.tbPort := rfl
@[simp] theorem State.withHostSide_tbReady : (s.withHostSide r).inputs.tbReady = s.inputs.tbReady := rfl
@[simp] theorem State.withHostSide_tbDone : (s.withHostSide r).inputs.tbDone = s.inputs.tbDone := rfl

end Reads

/-! ## Operations that do not read it -/

/-- The operation does the same whatever the host's side holds. -/
def HostSideBlind (f : State → State) : Prop := ∀ s r, f (s.withHostSide r) = (f s).withHostSide r

/-- The guarded operation does the same whatever the host's side holds, which does not decide whether it is enabled. -/
def HostSideBlindGuarded (f : State → Option State) : Prop :=
  ∀ s r, f (s.withHostSide r) = (f s).map (·.withHostSide r)

/-- What does not read the host's side does not write it either. -/
theorem HostSideBlind.keeps {f : State → State} (hf : HostSideBlind f) (s : State) : (f s).withHostSide s = f s := by
  rw [← hf, State.withHostSide_self]

theorem HostSideBlindGuarded.getD {f : State → Option State} (hf : HostSideBlindGuarded f) :
    HostSideBlind fun s => (f s).getD s := by
  intro s r
  simp only [hf s r]
  cases f s with
  | none => rfl
  | some s' => rfl

/-! ## The streamer's micro-steps -/

theorem advance_hostSideBlind : HostSideBlind State.advance := by
  intro s r
  unfold State.advance
  rw [State.withHostSide_idx]
  split <;> rfl

theorem sAcq_hostSideBlind : HostSideBlindGuarded sAcq := by
  intro s r
  unfold sAcq State.acquire
  rw [State.withHostSide_lockFree]
  split <;> rfl

theorem sSkip_hostSideBlind : HostSideBlindGuarded sSkip := by
  intro s r
  unfold sSkip
  rw [State.withHostSide_durZero, advance_hostSideBlind]
  split <;> rfl

theorem sSend_hostSideBlind : HostSideBlindGuarded sSend := by
  intro s r
  unfold sSend
  rw [State.withHostSide_durZero,
    State.withHostSide_tbReady]
  cases s.durZero <;> cases s.inputs.tbReady <;> rfl

theorem sResume_hostSideBlind : HostSideBlindGuarded sResume := by
  intro s r
  unfold sResume
  rw [State.withHostSide_delayDone]
  split
  · exact congrArg some (advance_hostSideBlind ((s.setDelayDone false).emitTb .delayDone) r)
  · rfl

theorem strmMicro_hostSideBlind : HostSideBlindGuarded strmMicro := by
  intro s r
  unfold strmMicro
  rw [State.withHostSide_sph, State.withHostSide_durZero]
  cases s.sph with
  | acq => exact sAcq_hostSideBlind s r
  | copy | rel | dly => rfl
  | step =>
    cases s.durZero with
    | true => exact sSkip_hostSideBlind s r
    | false => exact sSend_hostSideBlind s r
  | wait => exact sResume_hostSideBlind s r

theorem microTurn_strm_hostSideBlind : HostSideBlind (microTurn .strm) := strmMicro_hostSideBlind.getD

/-! ## The boundary -/

theorem giveDelayDone_hostSideBlind : HostSideBlindGuarded giveDelayDone := by
  intro s r
  unfold giveDelayDone
  rw [State.withHostSide_tbPend]
  cases s.tbPend with
  | some n => rfl
  | none => rfl

theorem delayDoneNow_hostSideBlind : HostSideBlind delayDoneNow := by
  intro s r
  unfold delayDoneNow
  rw [State.withHostSide_tbDone]
  split
  · exact giveDelayDone_hostSideBlind.getD s r
  · rfl

theorem boundaryMicro_hostSideBlind : HostSideBlindGuarded boundaryMicro := by
  intro s r
  unfold boundaryMicro
  rw [State.withHostSide_tbPort,
    State.withHostSide_tbReady]
  cases s.tbPort with
  | none => exact giveDelayDone_hostSideBlind s r
  | some q =>
    cases q with
    | delay n => rfl
    | send w =>
      cases s.inputs.tbReady with
      | true => rfl
      | false => exact giveDelayDone_hostSideBlind s r

theorem microTurn_boundary_hostSideBlind : HostSideBlind (microTurn .boundary) := boundaryMicro_hostSideBlind.getD

/-! ## A whole turn of the streamer -/

/-- A whole turn of the streamer whose inputs are sampled: the rest of the snapshot section, a `SKIP`, or the rest of an `EMIT`. -/
def wholeStreamerTurn (s : State) : State :=
  match s.sph with
  | .acq | .copy | .rel => runSnapshot 3 s
  | .step => if s.durZero then s.advance else runEmit s
  | .dly | .wait => finishEmit s

variable {s : State}

/-- In `S_STEP` at a Step of another duration than 0 a whole turn of the streamer is the `EMIT` (R119). -/
theorem runTurn_strm_emit (i : Inputs) (hp : s.sph = .step) (hd : s.durZero = false) :
    runTurn ⟨.strm, .whole, i⟩ s = .next (runEmit s) := by
  have hat : s.atStep ⟨s.currentStep.mask, s.currentStep.dur⟩ = true := by simp [State.atStep, hp]
  have hfetch : fetchStreamer .whole s = some (.emit s.currentStep.mask s.currentStep.dur) := by
    simp [fetchStreamer, decodeStepWord_current, hp, hd]
  simp [runTurn, fetch, hfetch, exec, execEmit, settle, settleStreamer, hat]

theorem runTurn_strm_whole (i : Inputs) (s : State) :
    runTurn ⟨.strm, .whole, i⟩ s = .next (wholeStreamerTurn s) := by
  cases hp : s.sph with
  | acq | copy | rel | dly | wait =>
    simp [runTurn, fetch, fetchStreamer, silentTurn, silentStreamer, wholeStreamerTurn, hp]
  | step =>
    cases hd : s.durZero with
    | true => simp [runTurn_strm_skip .whole i hp hd, wholeStreamerTurn, hp, hd]
    | false => simp [runTurn_strm_emit i hp hd, wholeStreamerTurn, hp, hd]

theorem finishEmit_of_dly (hp : s.sph = .dly) :
    finishEmit s = microTurn .strm (delayDoneNow (microTurn .strm s)) := by
  have hwait : (delayDoneNow ((takeDelay (delayOperand s) s).setSph .wait)).sph = .wait := by simp [delayDoneNow_sph]
  simp [finishEmit, microTurn, agentMicro, strmMicro, sDly, hp, hwait]

theorem finishEmit_of_wait (hp : s.sph = .wait) : finishEmit s = microTurn .strm (delayDoneNow s) := by
  have hwait : (delayDoneNow s).sph = .wait := by simp [delayDoneNow_sph, hp]
  simp [finishEmit, microTurn, agentMicro, strmMicro, hp, hwait]

theorem finishEmit_hostSideBlind : HostSideBlind finishEmit := by
  intro s r
  cases hp : s.sph with
  | dly =>
    rw [finishEmit_of_dly hp, finishEmit_of_dly (s := s.withHostSide r) hp, microTurn_strm_hostSideBlind,
      delayDoneNow_hostSideBlind, microTurn_strm_hostSideBlind]
  | wait =>
    rw [finishEmit_of_wait hp, finishEmit_of_wait (s := s.withHostSide r) hp, delayDoneNow_hostSideBlind,
      microTurn_strm_hostSideBlind]
  | acq | copy | rel | step =>
    simp [finishEmit, hp]

theorem runEmit_hostSideBlind : HostSideBlind runEmit := by
  intro s r
  unfold runEmit
  rw [sSend_hostSideBlind]
  cases sSend s with
  | none => rfl
  | some s' => exact finishEmit_hostSideBlind s' r

theorem runSnapshot_hostSideBlind (n : Nat) : HostSideBlind (runSnapshot n) := by
  induction n with
  | zero => exact fun _ _ => rfl
  | succ n ih =>
    intro s r
    unfold runSnapshot
    rw [State.withHostSide_sph, strmMicro_hostSideBlind]
    cases s.sph with
    | acq | copy | rel =>
      cases strmMicro s with
      | none => rfl
      | some s' => exact ih s' r
    | step | dly | wait => rfl

theorem wholeStreamerTurn_hostSideBlind : HostSideBlind wholeStreamerTurn := by
  intro s r
  unfold wholeStreamerTurn
  rw [State.withHostSide_sph, State.withHostSide_durZero]
  cases s.sph with
  | acq | copy | rel => exact runSnapshot_hostSideBlind 3 s r
  | step =>
    cases s.durZero with
    | true => exact advance_hostSideBlind s r
    | false => exact runEmit_hostSideBlind s r
  | dly | wait => exact finishEmit_hostSideBlind s r

/-! ## The step -/

/-- A turn of the streamer of either grain, whose inputs are sampled. -/
def streamerTurn : Grain → State → State
  | .micro => microTurn .strm
  | .whole => wholeStreamerTurn

theorem step_of_strm (ha : s.turn.agent = .strm) : step s = .next (streamerTurn s.turn.grain s.atTurn) := by
  unfold step
  generalize s.turn = t at ha
  obtain ⟨a, g, i⟩ := t
  cases ha
  cases g with
  | micro => exact runTurn_strm_micro i _
  | whole => exact runTurn_strm_whole i _

theorem streamerTurn_hostSideBlind (g : Grain) : HostSideBlind (streamerTurn g) := by
  cases g with
  | micro => exact microTurn_strm_hostSideBlind
  | whole => exact wholeStreamerTurn_hostSideBlind

/-- A step of the streamer leaves the host's side as sampling the turn's inputs left it. -/
theorem step_strm_keeps_hostSide {t : State} (ha : s.turn.agent = .strm) (h : step s = .next t) :
    t.withHostSide s.atTurn = t := by
  rw [step_of_strm ha] at h
  cases h
  exact (streamerTurn_hostSideBlind _).keeps s.atTurn

/-- Two states that differ in the host's side alone make the same step of the streamer. -/
theorem step_strm_of_other_hostSide {u t t' : State} (ha : s.turn.agent = .strm) (h : step s = .next t)
    (h' : step u = .next t') (hturn : u.turn = s.turn) (hu : u.atTurn = s.atTurn.withHostSide u.atTurn) :
    t' = t.withHostSide u.atTurn := by
  rw [step_of_strm ha] at h
  rw [step_of_strm (hturn ▸ ha), hturn] at h'
  cases h
  cases h'
  rw [← streamerTurn_hostSideBlind, ← hu]

end Sys2Proof.Machine

namespace Sys2Proof

open Machine

/-- Settles O39: the streamer's turn commutes with replacing the host's side of the state, and so also leaves it as it was. -/
theorem streamerBlindToLevels : Obligations.StreamerBlindToLevels := by
  unfold Obligations.StreamerBlindToLevels
  intro s t t' levels hlv hbuf hkind hph ha h h'
  have hother := step_strm_of_other_hostSide ha h h' rfl rfl
  rw [hother, ← step_strm_keeps_hostSide ha h]
  rfl

end Sys2Proof
end

section
/-! Whole turns and the micro-steps they stand for (R57, R119, R148 to R150): a whole turn is its agent's micro-steps in a row, and a run of
one-micro-step turns differs from that row only in the offer, the schedule and the count of turns, which none of them reads. -/

namespace Sys2Proof.Machine

variable {s s' : State}

/-! ## The offer, the schedule and the count of turns -/

/-- `s` with another offer at the host port, other turns to come and another count of turns. -/
def State.reclock (o : Option HcWord) (ts : List Turn) (n : Nat) (s : State) : State :=
  { s with inputs := { s.inputs with offer := o }, sched := ts, turnNo := n }

section Reads

variable (o : Option HcWord) (ts : List Turn) (n : Nat) (s : State)

@[simp] theorem State.reclock_hph : (s.reclock o ts n).hph = s.hph := rfl
@[simp] theorem State.reclock_hkind : (s.reclock o ts n).hkind = s.hkind := rfl
@[simp] theorem State.reclock_lockFree : (s.reclock o ts n).lockFree = s.lockFree := rfl
@[simp] theorem State.reclock_hostReady : (s.reclock o ts n).inputs.hostReady = s.inputs.hostReady := rfl

end Reads

theorem HostSideBlind.reclock {f : State → State} (hf : HostSideBlind f) (o : Option HcWord) (ts : List Turn) (n : Nat)
    (s : State) : f (s.reclock o ts n) = (f s).reclock o ts n := by
  calc f (s.reclock o ts n)
    _ = f (s.withHostSide (s.reclock o ts n)) := rfl
    _ = (f s).withHostSide (s.reclock o ts n) := hf _ _
    _ = ((f s).withHostSide s).withHostSide (s.reclock o ts n) := by rw [hf.keeps]
    _ = ((f s).withHostSide s).reclock o ts n := rfl
    _ = (f s).reclock o ts n := by rw [hf.keeps]

theorem latchWord_reclock (w : HcWord) (o : Option HcWord) (ts : List Turn) (n : Nat) (s : State) :
    latchWord w (s.reclock o ts n) = (latchWord w s).reclock o ts n := by
  unfold latchWord
  split
  · rfl
  · split
    · rfl
    · rfl

theorem hAcq_reclock (o : Option HcWord) (ts : List Turn) (n : Nat) (s : State) :
    hAcq (s.reclock o ts n) = (hAcq s).map (·.reclock o ts n) := by
  unfold hAcq State.acquire
  rw [State.reclock_hkind, State.reclock_lockFree]
  cases s.hkind <;> cases s.lockFree <;> rfl

theorem hRsp_reclock (o : Option HcWord) (ts : List Turn) (n : Nat) (s : State) :
    hRsp (s.reclock o ts n) = (hRsp s).map (·.reclock o ts n) := by
  unfold hRsp
  rw [State.reclock_hostReady]
  split <;> rfl

theorem hostContinue_reclock (o : Option HcWord) (ts : List Turn) (n : Nat) (s : State) :
    hostContinue (s.reclock o ts n) = (hostContinue s).map (·.reclock o ts n) := by
  unfold hostContinue
  rw [State.reclock_hph]
  cases s.hph with
  | idle | write | reflect | copy | rel => rfl
  | acq => exact hAcq_reclock o ts n s
  | rsp => exact hRsp_reclock o ts n s

theorem finishCommand_reclock (k : Nat) (o : Option HcWord) (ts : List Turn) (n : Nat) (s : State) :
    finishCommand k (s.reclock o ts n) = (finishCommand k s).reclock o ts n := by
  induction k generalizing s with
  | zero => rfl
  | succ k ih =>
    unfold finishCommand
    rw [hostContinue_reclock]
    cases hostContinue s with
    | none => rfl
    | some s' => exact ih s'

/-! ## One-micro-step turns without an offer -/

/-- With no offer the host engine can only go on with the command in hand. -/
theorem microTurn_host_of_no_offer (ho : s.inputs.offer = none) :
    microTurn .host s = (hostContinue s).getD s := by
  cases hp : s.hph <;> simp [microTurn, agentMicro, hostMicro, hAccept, hostContinue, hp, ho]

theorem microTurn_reclock {a : Agent} {o : Option HcWord} (ho : a = .host → s.inputs.offer = none ∧ o = none)
    (ts : List Turn) (n : Nat) : microTurn a (s.reclock o ts n) = (microTurn a s).reclock o ts n := by
  cases a with
  | strm => exact microTurn_strm_hostSideBlind.reclock o ts n s
  | boundary => exact microTurn_boundary_hostSideBlind.reclock o ts n s
  | host =>
    obtain ⟨hs, rfl⟩ := ho rfl
    rw [microTurn_host_of_no_offer hs, microTurn_host_of_no_offer (s := s.reclock none ts n) rfl, hostContinue_reclock]
    cases hostContinue s with
    | none => rfl
    | some s' => rfl

theorem hostContinue_inputs (h : hostContinue s = some s') : s'.inputs = s.inputs := by
  rcases hostContinue_cases h with ⟨-, -, rfl⟩ | ⟨-, rfl⟩ | ⟨-, rfl⟩ | ⟨-, rfl⟩ | ⟨-, rfl⟩ | ⟨-, -, rfl⟩ <;> rfl

@[simp] theorem State.advance_inputs (s : State) : s.advance.inputs = s.inputs := by
  unfold State.advance
  split <;> rfl

theorem strmMicro_inputs (h : strmMicro s = some s') : s'.inputs = s.inputs := by
  rcases strmMicro_cases h with
    ⟨-, -, rfl⟩ | ⟨-, rfl⟩ | ⟨-, rfl⟩ | ⟨-, -, rfl⟩ | ⟨-, -, -, rfl⟩ | ⟨-, rfl⟩ | ⟨-, -, rfl⟩ <;>
    simp [takeSend, takeDelay]

theorem MicroStep.inputs_eq {a : Agent} (ha : a ≠ .host) (h : MicroStep a s s') : s'.inputs = s.inputs := by
  cases h with
  | accept w _ => exact absurd rfl ha
  | host h => exact hostContinue_inputs h
  | strm h => exact strmMicro_inputs h
  | complete _ h =>
    obtain ⟨-, rfl⟩ := giveDelayDone_eq_some.mp h
    rfl
  | takeSend w _ => rfl
  | takeDelay n _ => rfl

/-- Only H.ACCEPT touches the inputs of its turn: it takes the offer. -/
theorem microTurn_inputs {a : Agent} (ho : a = .host → s.inputs.offer = none) : (microTurn a s).inputs = s.inputs := by
  by_cases ha : a = .host
  · rw [ha, microTurn_host_of_no_offer (ho ha)]
    cases h : hostContinue s with
    | none => rfl
    | some s' => exact hostContinue_inputs h
  · exact microTurn_induct (P := fun u => u.inputs = s.inputs) a rfl fun _ h => h.inputs_eq ha

/-- The turns `ts` in a row, their inputs sampled once. -/
def turnsInRow (ts : List Turn) (s : State) : State := ts.foldl (fun u t => microTurn t.agent u) s

/-- A turn of one micro-step with the inputs `i`, which offer no command to the host engine. -/
def SteadyTurn (i : Inputs) (t : Turn) : Prop :=
  t.grain = .micro ∧ t.inputs = i ∧ (t.agent = .host → i.offer = none)

theorem run_reclock_of_steady {i : Inputs} {ts : List Turn} (hts : ∀ t ∈ ts, SteadyTurn i t) (hi : s.inputs = i) (n : Nat) :
    Sys2Proof.core.run ts.length (s.reclock i.offer ts n) =
      .next ((turnsInRow ts s).reclock i.offer [] (n + ts.length)) := by
  induction ts generalizing s n with
  | nil => rfl
  | cons t ts ih =>
    obtain ⟨⟨hg, ht, ho⟩, hrest⟩ := List.forall_mem_cons.mp hts
    subst hi
    have hbegin : (s.reclock s.inputs.offer (t :: ts) n).beginTurn t.inputs ts = s.reclock s.inputs.offer ts (n + 1) := by
      rw [ht]
      rfl
    rw [List.length_cons, run_microTurn (t := t) (ts := ts) _ rfl hg, hbegin,
      microTurn_reclock fun ha => ⟨ho ha, ho ha⟩, ih hrest (microTurn_inputs ho), Nat.add_assoc, Nat.add_comm 1]
    rfl

/-- A run of such turns from any state: the first samples the inputs. -/
theorem run_withTurns_of_steady {i : Inputs} {ts : List Turn} (hts : ∀ t ∈ ts, SteadyTurn i t) (hne : ts ≠ []) :
    Sys2Proof.core.run ts.length (s.withTurns ts) =
      .next ((turnsInRow ts (s.beginTurn i [])).reclock i.offer [] (s.turnNo + ts.length)) := by
  rw [← run_reclock_of_steady hts rfl]
  cases ts with
  | nil => exact absurd rfl hne
  | cons t ts =>
    obtain ⟨⟨hg, -, -⟩, -⟩ := List.forall_mem_cons.mp hts
    rw [List.length_cons, run_microTurn (t := t) (ts := ts) _ rfl hg, run_microTurn (t := t) (ts := ts) _ rfl hg]
    rfl

/-! ## A whole turn of the host engine -/

theorem finishCommand_of_waiting (h : hostContinue s = none) (k : Nat) : finishCommand k s = s := by
  cases k with
  | zero => rfl
  | succ k => simp [finishCommand, h]

theorem finishCommand_succ (k : Nat) (s : State) :
    finishCommand (k + 1) s = finishCommand k ((hostContinue s).getD s) := by
  cases h : hostContinue s with
  | some s' => simp [finishCommand, h]
  | none => rw [finishCommand_of_waiting h, Option.getD_none, finishCommand_of_waiting h]

theorem finishCommand_inputs (k : Nat) (s : State) : (finishCommand k s).inputs = s.inputs :=
  finishCommand_keeps (P := fun u => u.inputs = s.inputs) (fun _ _ h hu => (hostContinue_inputs h).trans hu) k s rfl

/-- The rest of a command is as many turns of the host engine in a row. -/
theorem finishCommand_eq_turnsInRow (i : Inputs) (ho : s.inputs.offer = none) (k : Nat) :
    finishCommand k s = turnsInRow (List.replicate k ⟨.host, .micro, i⟩) s := by
  induction k generalizing s with
  | zero => rfl
  | succ k ih =>
    have hinputs : (microTurn .host s).inputs = s.inputs := microTurn_inputs fun _ => ho
    rw [finishCommand_succ, ← microTurn_host_of_no_offer ho, ih (hinputs ▸ ho)]
    rfl

/-- Outside `H_IDLE` a whole turn of the host engine is the rest of the command in hand. -/
theorem runTurn_host_busy (i : Inputs) (hp : s.hph ≠ .idle) :
    runTurn ⟨.host, .whole, i⟩ s = .next (finishCommand 5 s) := by
  cases h : s.hph with
  | idle => exact absurd h hp
  | acq | write | reflect | copy | rel => simp [runTurn, fetch, fetchHost, silentTurn, silentHost, h]
  | rsp =>
    have hrsp : hostContinue s = hRsp s := by simp [hostContinue, h]
    rw [runTurn_host_of_rsp .whole i h, finishCommand_succ, hrsp, finishCommand_of_waiting]
    cases hr : s.inputs.hostReady <;> simp [hRsp, hostContinue, h, hr]

/-- The state in which H.ACCEPT has taken the word `w` (R141). -/
def acceptedWord (w : HcWord) (s : State) : State := latchWord w (s.consumeOffer.emitHost (.cmd w))

theorem latchWord_inputs (w : HcWord) (s : State) : (latchWord w s).inputs = s.inputs := by
  unfold latchWord
  split
  · rfl
  · split
    · rfl
    · rfl

theorem acceptedWord_inputs (w : HcWord) (s : State) :
    (acceptedWord w s).inputs = { s.inputs with offer := none } := latchWord_inputs w _

theorem acceptedWord_beginTurn (w : HcWord) (i : Inputs) (ts : List Turn) (s : State) :
    acceptedWord w (s.beginTurn i ts) = (acceptedWord w (s.beginTurn i [])).reclock none ts (s.turnNo + 1) :=
  latchWord_reclock w none ts (s.turnNo + 1) ((s.beginTurn i []).consumeOffer.emitHost (.cmd w))

/-- In `H_IDLE` a one-micro-step turn accepts the word offered. -/
theorem microTurn_host_idle {w : HcWord} (hp : s.hph = .idle) (ho : s.inputs.offer = some w) :
    microTurn .host s = acceptedWord w s := by
  have haccept : hostMicro s = some (acceptedWord w s) := by
    simp only [hostMicro, hAccept, hp, ho]
    exact acceptCommand_eq_some.mpr ⟨hp, rfl⟩
  simp [microTurn, agentMicro, haccept]

theorem runCommand_of_idle {w : HcWord} {latch : State → State} (hl : ∀ u, latchWord w u = latch u) (hp : s.hph = .idle) :
    runCommand w latch s = finishCommand 5 (acceptedWord w s) := by
  have haccept : acceptCommand w latch s = some (acceptedWord w s) := acceptCommand_eq_some.mpr ⟨hp, hl _⟩
  simp only [runCommand, haccept]

/-- In `H_IDLE` a whole turn of the host engine accepts the word offered and runs its command (R148 to R150). -/
theorem runTurn_host_idle (i : Inputs) {w : HcWord} (hp : s.hph = .idle) (ho : s.inputs.offer = some w) :
    runTurn ⟨.host, .whole, i⟩ s = .next (finishCommand 5 (acceptedWord w s)) := by
  have hfetch : fetchHost .whole s = some (decodeHostCommand w) := by simp [fetchHost, hp, ho]
  rcases decodeHostCommand_cases w with ⟨l, h, rfl⟩ | ⟨h, rfl⟩ | ⟨a, h, rfl⟩ | ⟨a, h, rfl⟩ | ⟨a, ha, h, rfl⟩
  · rw [← runCommand_of_idle (latchWord_updateLevels l) hp]
    simp [runTurn, fetch, hfetch, h, exec, execUpdateLevels, settle]
  · rw [← runCommand_of_idle latchWord_readSnapshot hp]
    simp [runTurn, fetch, hfetch, h, exec, execReadSnapshot, settle]
  · rw [← runCommand_of_idle (latchWord_illegalOp00 a) hp]
    simp [runTurn, fetch, hfetch, h, exec, execIllegalOp00, settle]
  · rw [← runCommand_of_idle (latchWord_illegalOp11 a) hp]
    simp [runTurn, fetch, hfetch, h, exec, execIllegalOp11, settle]
  · rw [← runCommand_of_idle (latchWord_illegalRdArg a ha) hp]
    simp [runTurn, fetch, hfetch, h, exec, execIllegalRdArg, settle]

theorem steadyTurn_of_mem_replicate {i : Inputs} (hi : i.offer = none) (k : Nat) :
    ∀ t ∈ List.replicate k (⟨.host, .micro, i⟩ : Turn), SteadyTurn i t := by
  intro t ht
  rw [List.eq_of_mem_replicate ht]
  exact ⟨rfl, rfl, fun _ => hi⟩

/-- A run of `k` one-micro-step turns of the host engine without an offer is the rest of the command in hand. -/
theorem run_finishCommand {i : Inputs} (hi : i.offer = none) (hs : s.inputs = i) (k n : Nat) :
    Sys2Proof.core.run k (s.reclock none (List.replicate k ⟨.host, .micro, i⟩) n) =
      .next ((finishCommand k s).reclock none [] (n + k)) := by
  have hrun := run_reclock_of_steady (steadyTurn_of_mem_replicate hi k) hs n
  rwa [List.length_replicate, hi, ← finishCommand_eq_turnsInRow i (hs ▸ hi)] at hrun

/-- A run of one turn. -/
theorem run_one {t : Turn} {s' : State} (h : runTurn t (s.beginTurn t.inputs []) = .next s') :
    Sys2Proof.core.run 1 (s.withTurns [t]) = .next s' :=
  run_of_step 0 h

/-- The whole command: H.ACCEPT, and the rest of the command from there. -/
theorem run_whole_command (i : Inputs) {w : HcWord} (hp : s.hph = .idle) (ho : i.offer = some w) :
    Sys2Proof.core.run 1 (s.withTurns [⟨.host, .whole, i⟩]) =
      .next ((finishCommand 5 (acceptedWord w (s.beginTurn i []))).reclock none [] (s.turnNo + 1)) := by
  rw [← finishCommand_reclock, ← acceptedWord_beginTurn]
  exact run_one (runTurn_host_idle i hp ho)

theorem microTurn_host_beginTurn (i : Inputs) (ts : List Turn) {w : HcWord} (hp : s.hph = .idle) (ho : i.offer = some w) :
    microTurn .host (s.beginTurn i ts) = (acceptedWord w (s.beginTurn i [])).reclock none ts (s.turnNo + 1) :=
  (microTurn_host_idle (s := s.beginTurn i ts) hp ho).trans (acceptedWord_beginTurn w i ts s)

theorem run_micro_command (i : Inputs) {w : HcWord} (hp : s.hph = .idle) (ho : i.offer = some w) :
    Sys2Proof.core.run 6 (s.withTurns (⟨.host, .micro, i⟩ ::
        List.replicate 5 ⟨.host, .micro, { i with offer := none }⟩)) =
      .next ((finishCommand 5 (acceptedWord w (s.beginTurn i []))).reclock none [] (s.turnNo + 1 + 5)) := by
  rw [run_microTurn 5 rfl rfl]
  exact (congrArg (Sys2Proof.core.run 5) (microTurn_host_beginTurn i _ hp ho)).trans
    (run_finishCommand rfl (acceptedWord_inputs w (s.beginTurn i [])) 5 (s.turnNo + 1))

/-- The rest of a command reads no offer: sampled with one or without, it ends alike. -/
theorem finishCommand_beginTurn (k : Nat) (i : Inputs) (ts : List Turn) (s : State) :
    finishCommand k (s.beginTurn i ts) =
      (finishCommand k (s.beginTurn { i with offer := none } [])).reclock i.offer ts (s.turnNo + 1) := by
  rw [← finishCommand_reclock]
  rfl

/-- With the offer put back, the sampled inputs are whole again. -/
theorem State.reclock_of_inputs {i : Inputs} (h : s.inputs = { i with offer := none }) (m n : Nat) :
    s.reclock i.offer [] m = { s.reclock none [] n with inputs := i, turnNo := m } := by
  unfold State.reclock
  rw [h]

theorem run_whole_rest (i : Inputs) (hp : s.hph ≠ .idle) :
    Sys2Proof.core.run 1 (s.withTurns [⟨.host, .whole, i⟩]) =
      .next ((finishCommand 5 (s.beginTurn { i with offer := none } [])).reclock i.offer [] (s.turnNo + 1)) := by
  rw [← finishCommand_beginTurn]
  exact run_one (runTurn_host_busy i hp)

theorem run_micro_rest (i : Inputs) (hi : i.offer = none) (s : State) :
    Sys2Proof.core.run 5 (s.withTurns (List.replicate 5 ⟨.host, .micro, i⟩)) =
      .next ((finishCommand 5 (s.beginTurn i [])).reclock none [] (s.turnNo + 5)) := by
  have hrun := run_withTurns_of_steady (s := s) (steadyTurn_of_mem_replicate hi 5) (by simp)
  rwa [List.length_replicate, ← finishCommand_eq_turnsInRow (s := s.beginTurn i []) i hi, hi] at hrun

end Sys2Proof.Machine

namespace Sys2Proof

open Machine

/-- Settles O56: a whole turn is H.ACCEPT, where a word is to be accepted, and the rest of the command; so are the turns one by one. -/
theorem wholeCommandIsItsMicroSteps : Obligations.WholeCommandIsItsMicroSteps := by
  unfold Obligations.WholeCommandIsItsMicroSteps
  intro s inputs
  refine ⟨fun hp w => ?command, fun hp => ?rest⟩
  case command => exact ⟨_, _, run_whole_command _ hp rfl, run_micro_command _ hp rfl, rfl⟩
  case rest =>
    exact ⟨_, _, run_whole_rest inputs hp, run_micro_rest _ rfl s, State.reclock_of_inputs (finishCommand_inputs 5 _) _ _⟩

end Sys2Proof
end

section
/-! A whole turn of the streamer is its micro-steps in a row, with the boundary's completion between the last two of an `EMIT` (R57, R110,
R119). -/

namespace Sys2Proof.Machine

variable {s : State}

/-! ## The snapshot section -/

theorem microTurn_strm_of_acq (hp : s.sph = .acq) :
    (microTurn .strm s).sph = .acq ∨ (microTurn .strm s).sph = .copy := by
  cases hl : s.lockFree <;> simp [microTurn, agentMicro, strmMicro, sAcq, State.acquire, hp, hl]

theorem runSnapshot_of_waiting (h : strmMicro s = none) (n : Nat) : runSnapshot n s = s := by
  cases n with
  | zero => rfl
  | succ n =>
    unfold runSnapshot
    rw [h]
    split <;> rfl

theorem runSnapshot_of_over (h : s.sph = .step) (n : Nat) : runSnapshot n s = s := by
  cases n with
  | zero => rfl
  | succ n => simp [runSnapshot, h]

theorem runSnapshot_succ (hp : s.sph.betweenCycles = true) (n : Nat) :
    runSnapshot (n + 1) s = runSnapshot n (microTurn .strm s) := by
  cases h : strmMicro s with
  | none =>
    have hwait : microTurn .strm s = s := by simp [microTurn, agentMicro, h]
    rw [hwait, runSnapshot_of_waiting h, runSnapshot_of_waiting h]
  | some s' =>
    have htake : microTurn .strm s = s' := by simp [microTurn, agentMicro, h]
    rw [htake]
    rcases (SPhase.betweenCycles_iff s.sph).mp hp with hp | hp | hp <;> simp [runSnapshot, hp, h]

theorem runSnapshot_of_rel (hp : s.sph = .rel) (n : Nat) : runSnapshot (n + 1) s = microTurn .strm s := by
  rw [runSnapshot_succ (by simp [hp, SPhase.betweenCycles])]
  exact runSnapshot_of_over (by simp [microTurn_strm_of_rel hp]) n

theorem runSnapshot_of_copy (hp : s.sph = .copy) (n : Nat) :
    runSnapshot (n + 2) s = microTurn .strm (microTurn .strm s) := by
  rw [runSnapshot_succ (by simp [hp, SPhase.betweenCycles])]
  exact runSnapshot_of_rel (by simp [microTurn_strm_of_copy hp]) n

/-- From `S_ACQ` three turns are always of the snapshot section: the first may wait for the lock, and then so do the others. -/
theorem runSnapshot_of_acq (hp : s.sph = .acq) :
    runSnapshot 3 s = microTurn .strm (microTurn .strm (microTurn .strm s)) := by
  rw [runSnapshot_succ (by simp [hp, SPhase.betweenCycles])]
  rcases microTurn_strm_of_acq hp with hfirst | hfirst
  · rw [runSnapshot_succ (by simp [hfirst, SPhase.betweenCycles])]
    rcases microTurn_strm_of_acq hfirst with hsecond | hsecond <;>
      exact runSnapshot_succ (by simp [hsecond, SPhase.betweenCycles]) 0
  · exact runSnapshot_of_copy hfirst 0

/-! ## The `EMIT` -/

/-- With nothing on its port the boundary's turn is its completion. -/
theorem microTurn_boundary_of_no_request (hport : s.tbPort = none) :
    microTurn .boundary s = (giveDelayDone s).getD s := by
  simp [microTurn, agentMicro, boundaryMicro, hport]

/-- The boundary's completion inside a whole turn is its own turn, where the inputs give it one. -/
theorem delayDoneNow_eq_turnsInRow {i : Inputs} (hi : s.inputs = i) (hport : s.tbPort = none) :
    delayDoneNow s = turnsInRow (completionTurn i) s := by
  subst hi
  cases hd : s.inputs.tbDone <;>
    simp [delayDoneNow, completionTurn, turnsInRow, hd, microTurn_boundary_of_no_request hport]

theorem delayDoneNow_of_idle (h : s.tbPend = none) : delayDoneNow s = s := by
  simp [delayDoneNow, giveDelayDone, h]

theorem microTurn_strm_skip (hp : s.sph = .step) (hd : s.durZero = true) : microTurn .strm s = s.advance := by
  simp [microTurn, agentMicro, strmMicro, sSkip, hp, hd]

theorem microTurn_strm_send (hp : s.sph = .step) (hd : s.durZero = false) :
    microTurn .strm s = (sSend s).getD s := by
  simp [microTurn, agentMicro, strmMicro, hp, hd]

/-- A whole `EMIT` is S.SEND, S.DLY, the completion, S.RESUME; where the boundary does not accept, all of them wait. -/
theorem runEmit_eq (hp : s.sph = .step) (hd : s.durZero = false) (hpend : s.tbPend = none) :
    runEmit s = microTurn .strm (delayDoneNow (microTurn .strm (microTurn .strm s))) := by
  have hsend := microTurn_strm_send hp hd
  cases hr : s.inputs.tbReady with
  | false =>
    have hnone : sSend s = none := by simp [sSend, hd, hr]
    have hwait : microTurn .strm s = s := by rw [hsend, hnone, Option.getD_none]
    rw [hwait, hwait, delayDoneNow_of_idle hpend, hwait]
    simp [runEmit, hnone]
  | true =>
    have hsome : sSend s = some ((takeSend (sendOperand s) s).setSph .dly) := by simp [sSend, hd, hr]
    rw [hsend, hsome, Option.getD_some, ← finishEmit_of_dly rfl]
    simp [runEmit, hsome]

/-! ## The whole turn -/

theorem inv_microTurn (h : Inv s) (a : Agent) : Inv (microTurn a s) :=
  microTurn_induct a h fun _ hm => hm.keeps_inv h

theorem turnsInRow_append (ts ts' : List Turn) (s : State) :
    turnsInRow (ts ++ ts') s = turnsInRow ts' (turnsInRow ts s) := List.foldl_append ..

theorem microTurn_strm_inputs (s : State) : (microTurn .strm s).inputs = s.inputs := microTurn_inputs nofun

/-- The end of an `EMIT`, from where the delay is asked for. -/
theorem resume_eq_turnsInRow {i : Inputs} (h : Inv s) (hi : s.inputs = i) :
    microTurn .strm (delayDoneNow s) = turnsInRow (completionTurn i ++ [⟨.strm, .micro, i⟩]) s := by
  rw [turnsInRow_append, ← delayDoneNow_eq_turnsInRow hi h.port]
  rfl

theorem wholeStreamerTurn_eq_turnsInRow {i : Inputs} (h : Inv s) (hi : s.inputs = i) :
    wholeStreamerTurn s = turnsInRow (streamerMicroTurns s i) s := by
  have hnext : (microTurn .strm s).inputs = i := (microTurn_strm_inputs s).trans hi
  have hsecond : (microTurn .strm (microTurn .strm s)).inputs = i := (microTurn_strm_inputs _).trans hnext
  cases hp : s.sph with
  | acq =>
    simp only [wholeStreamerTurn, streamerMicroTurns, hp]
    exact runSnapshot_of_acq hp
  | copy =>
    simp only [wholeStreamerTurn, streamerMicroTurns, hp]
    exact runSnapshot_of_copy hp 1
  | rel =>
    simp only [wholeStreamerTurn, streamerMicroTurns, hp]
    exact runSnapshot_of_rel hp 2
  | step =>
    cases hd : s.durZero with
    | true =>
      simp only [wholeStreamerTurn, streamerMicroTurns, hp, hd, if_true]
      exact (microTurn_strm_skip hp hd).symm
    | false =>
      obtain ⟨-, hnone⟩ := h.delay
      obtain ⟨hpend, -⟩ := hnone (by simp [hp])
      simp only [wholeStreamerTurn, streamerMicroTurns, hp, hd, Bool.false_eq_true, if_false]
      rw [runEmit_eq hp hd hpend, resume_eq_turnsInRow (inv_microTurn (inv_microTurn h .strm) .strm) hsecond, List.append_assoc,
        turnsInRow_append [_, _]]
      rfl
  | dly =>
    simp only [wholeStreamerTurn, streamerMicroTurns, hp]
    rw [finishEmit_of_dly hp, resume_eq_turnsInRow (inv_microTurn h .strm) hnext, List.append_assoc, turnsInRow_append [_]]
    rfl
  | wait =>
    simp only [wholeStreamerTurn, streamerMicroTurns, hp]
    rw [finishEmit_of_wait hp, resume_eq_turnsInRow h hi]

/-! ## The run -/

theorem steadyTurn_of_mem_streamerMicroTurns (s : State) (i : Inputs) :
    ∀ t ∈ streamerMicroTurns s i, SteadyTurn i t := by
  have hown : SteadyTurn i ⟨.strm, .micro, i⟩ := ⟨rfl, rfl, nofun⟩
  have hdone : ∀ t ∈ completionTurn i, SteadyTurn i t := by
    intro t ht
    unfold completionTurn at ht
    split at ht
    · rw [List.mem_singleton.mp ht]
      exact ⟨rfl, rfl, nofun⟩
    · cases ht
  unfold streamerMicroTurns
  cases s.sph with
  | acq | copy | rel => simpa using hown
  | step =>
    cases s.durZero with
    | true => simpa using hown
    | false => simpa [or_imp, forall_and, hown] using hdone
  | dly | wait => simpa [or_imp, forall_and, hown] using hdone

theorem streamerMicroTurns_ne_nil (s : State) (i : Inputs) : streamerMicroTurns s i ≠ [] := by
  unfold streamerMicroTurns
  cases s.sph with
  | acq | copy | rel | dly | wait => simp
  | step => cases s.durZero <;> simp

theorem run_whole_streamer (i : Inputs) (s : State) :
    Sys2Proof.core.run 1 (s.withTurns [⟨.strm, .whole, i⟩]) =
      .next ((wholeStreamerTurn (s.beginTurn i [])).reclock i.offer [] (s.turnNo + 1)) := by
  rw [← wholeStreamerTurn_hostSideBlind.reclock]
  exact run_one (runTurn_strm_whole i _)

theorem run_micro_streamer (i : Inputs) (h : Inv s) :
    Sys2Proof.core.run (streamerMicroTurns s i).length (s.withTurns (streamerMicroTurns s i)) =
      .next ((wholeStreamerTurn (s.beginTurn i [])).reclock i.offer []
        (s.turnNo + (streamerMicroTurns s i).length)) := by
  have hbegun : Inv (s.beginTurn i []) := { h with }
  have hrow : wholeStreamerTurn (s.beginTurn i []) = turnsInRow (streamerMicroTurns s i) (s.beginTurn i []) :=
    wholeStreamerTurn_eq_turnsInRow hbegun rfl
  rw [hrow]
  exact run_withTurns_of_steady (steadyTurn_of_mem_streamerMicroTurns s i) (streamerMicroTurns_ne_nil s i)

end Sys2Proof.Machine

namespace Sys2Proof

open Machine

/-- Settles O57: a whole turn of the streamer is the turns of `streamerMicroTurns` in a row. -/
theorem wholeStreamerTurnIsItsMicroSteps : Obligations.WholeStreamerTurnIsItsMicroSteps := by
  unfold Obligations.WholeStreamerTurnIsItsMicroSteps
  intro s inputs h
  exact ⟨_, _, run_whole_streamer inputs s, run_micro_streamer inputs h, rfl⟩

end Sys2Proof
end

section
/-! Decoding and encoding undo each other on every port (R61 to R71, R74), and a table word decodes to the operation it stands for. -/

namespace Sys2Proof

/-! ## Words as numbers -/

/-- The word of an instruction fits the width of its port's format. -/
theorem encodeWord_lt (i : Instr) : encodeWord i < 2 ^ i.format.width := by
  cases i with
  | send word => exact word.isLt
  | delay count => exact count.isLt
  | _ => exact BitVec.isLt (w := Format.width _) _

/-- Every word of a format fits the bytes of the format. -/
theorem two_pow_width_le (f : Format) : 2 ^ f.width ≤ 256 ^ f.byteCount := by
  have hbits : f.width ≤ 8 * f.byteCount := by unfold Format.byteCount; omega
  calc 2 ^ f.width ≤ 2 ^ (8 * f.byteCount) := Nat.pow_le_pow_right (by decide) hbits
    _ = 256 ^ f.byteCount := pow_mul 2 8 f.byteCount

@[simp] theorem decodeWord_hc (w : HcWord) : decodeWord .hc w.toNat = .ok (decodeHostCommand w) := by
  simp only [decodeWord, BitVec.ofNat_toNat, BitVec.setWidth_eq]

@[simp] theorem decodeWord_hr (w : HrWord) : decodeWord .hr w.toNat = decodeResponse w := by
  simp only [decodeWord, BitVec.ofNat_toNat, BitVec.setWidth_eq]

@[simp] theorem decodeWord_st (w : StWord) : decodeWord .st w.toNat = .ok (decodeStepWord w) := by
  simp only [decodeWord, BitVec.ofNat_toNat, BitVec.setWidth_eq]

@[simp] theorem decodeWord_tbs (w : TbsWord) : decodeWord .tbs w.toNat = .ok (.send w) := by
  simp only [decodeWord, decodeSend, BitVec.ofNat_toNat, BitVec.setWidth_eq]

@[simp] theorem decodeWord_tbd (w : TbdWord) : decodeWord .tbd w.toNat = .ok (.delay w) := by
  simp only [decodeWord, decodeDelay, BitVec.ofNat_toNat, BitVec.setWidth_eq]

/-! ## From an instruction to its word and back -/

theorem decodeHostCommand_hcWord (op : BitVec 2) (arg : LvWord) :
    decodeHostCommand (hcWord op arg) =
      if op = 0b01 then .updateLevels (unpackLevels arg)
      else if op = 0b10 then if arg = 0 then .readSnapshot else .illegalRdArg arg
      else if op = 0b00 then .illegalOp00 arg
      else .illegalOp11 arg := by
  simp only [decodeHostCommand, hcOp_hcWord, hcArg_hcWord]

theorem decodeResponse_hrWord (kind : BitVec 2) (data : SqWord) :
    decodeResponse (hrWord kind data) =
      if kind = 0b01 then if data = 0 then .ok .ack else .error .ackDataNotZero
      else if kind = 0b10 then .ok (.data (unpackSequence data))
      else if kind = 0b11 then if data = 0 then .ok .err else .error .errDataNotZero
      else .error .reservedKind := by
  simp only [decodeResponse, hrKind_hrWord, hrData_hrWord]

theorem decodeStepWord_stepWord (s : Step) :
    decodeStepWord (stepWord s) = if s.dur = 0 then .skip s.mask else .emit s.mask s.dur := by
  simp only [decodeStepWord, stepOfWord_stepWord]

theorem decodeWord_encodeWord {i : Instr} (h : i.wellFormed = true) : decodeWord i.format (encodeWord i) = .ok i := by
  cases i with
  | updateLevels _ | readSnapshot | illegalOp00 _ | illegalOp11 _ =>
    simp [Instr.format, encodeWord, encodeHostCommand, decodeHostCommand_hcWord]
  | illegalRdArg arg =>
    have harg : arg ≠ 0#64 := by simpa [Instr.wellFormed] using h
    simp [Instr.format, encodeWord, encodeHostCommand, decodeHostCommand_hcWord, harg]
  | ack | data _ | err => simp [Instr.format, encodeWord, encodeResponse, decodeResponse_hrWord]
  | skip mask => simp [Instr.format, encodeWord, decodeStepWord_stepWord]
  | emit mask dur =>
    have hdur : dur ≠ 0#8 := by simpa [Instr.wellFormed] using h
    simp [Instr.format, encodeWord, decodeStepWord_stepWord, hdur]
  | send word => exact decodeWord_tbs word
  | delay count => exact decodeWord_tbd count

/-! ## From a word to its instruction and back -/

/-- `i` is a well-formed instruction of the port of format `f`, and `w` is its word. -/
structure Instr.HasWord (i : Instr) (f : Format) (w : Nat) : Prop where
  format : i.format = f
  wellFormed : i.wellFormed = true
  word : encodeWord i = w

theorem decodeHostCommand_hasWord (w : HcWord) : (decodeHostCommand w).HasWord .hc w.toNat := by
  rcases Machine.decodeHostCommand_cases w with ⟨l, h, hw⟩ | ⟨h, hw⟩ | ⟨a, h, hw⟩ | ⟨a, h, hw⟩ | ⟨a, ha, h, hw⟩ <;> rw [h]
  case inr.inr.inr.inr => exact ⟨rfl, bne_iff_ne.mpr ha, congrArg BitVec.toNat hw⟩
  all_goals exact ⟨rfl, rfl, congrArg BitVec.toNat hw⟩

theorem decodeResponse_hasWord {w : HrWord} {i : Instr} (h : decodeResponse w = .ok i) : i.HasWord .hr w.toNat := by
  rw [← hrWord_fields w] at h ⊢
  rw [decodeResponse_hrWord] at h
  split at h
  next hkind =>
    split at h
    next hdata => cases h; exact ⟨rfl, rfl, by rw [hkind, hdata]; rfl⟩
    next => cases h
  next =>
    split at h
    next hkind => cases h; exact ⟨rfl, rfl, by rw [encodeWord, encodeResponse, packSequence_unpackSequence, hkind]⟩
    next =>
      split at h
      next hkind =>
        split at h
        next hdata => cases h; exact ⟨rfl, rfl, by rw [hkind, hdata]; rfl⟩
        next => cases h
      next => cases h

theorem decodeStepWord_hasWord (w : StWord) : (decodeStepWord w).HasWord .st w.toNat := by
  unfold decodeStepWord
  split
  next hdur => exact ⟨rfl, rfl, by rw [encodeWord, ← hdur, stepWord_stepOfWord]⟩
  next hdur => exact ⟨rfl, bne_iff_ne.mpr hdur, by rw [encodeWord, stepWord_stepOfWord]⟩

theorem decodeWord_hasWord {f : Format} {w : Nat} {i : Instr} (hw : w < 2 ^ f.width) (h : decodeWord f w = .ok i) :
    i.HasWord f w := by
  obtain ⟨v, rfl⟩ : ∃ v : BitVec f.width, w = v.toNat := ⟨BitVec.ofNatLT w hw, rfl⟩
  cases f with
  | hc => cases (decodeWord_hc v).symm.trans h; exact decodeHostCommand_hasWord v
  | hr => exact decodeResponse_hasWord ((decodeWord_hr v).symm.trans h)
  | st => cases (decodeWord_st v).symm.trans h; exact decodeStepWord_hasWord v
  | tbs => cases (decodeWord_tbs v).symm.trans h; exact ⟨rfl, rfl, rfl⟩
  | tbd => cases (decodeWord_tbd v).symm.trans h; exact ⟨rfl, rfl, rfl⟩

/-! ## Bytes on a port -/

theorem shiftRight_eq_zero_iff_lt (w n : Nat) : w >>> n = 0 ↔ w < 2 ^ n := by
  rw [Nat.shiftRight_eq_div_pow, Nat.div_eq_zero_iff_lt (Nat.two_pow_pos n)]

theorem decode_eq_ok_iff {f : Format} {bytes : List Byte} {i : Instr} :
    decode f bytes = .ok i ↔
      bytes.length = f.byteCount ∧ wordOfBytes bytes < 2 ^ f.width ∧ decodeWord f (wordOfBytes bytes) = .ok i := by
  unfold decode
  split
  next hlen => exact ⟨nofun, fun ⟨heq, _⟩ => absurd heq hlen⟩
  next hlen =>
    split
    next hpad => exact ⟨nofun, fun ⟨_, hlt, _⟩ => absurd ((shiftRight_eq_zero_iff_lt _ _).mpr hlt) hpad⟩
    next hpad =>
      exact ⟨fun h => ⟨not_not.mp hlen, (shiftRight_eq_zero_iff_lt _ _).mp (not_not.mp hpad), h⟩, fun ⟨_, _, h⟩ => h⟩

/-- On the bytes of a word that fits the format, decoding is decoding of the word. -/
theorem decode_bytesOfWord_eq_ok_iff {f : Format} {w : Nat} (hw : w < 2 ^ f.width) {i : Instr} :
    decode f (bytesOfWord f.byteCount w) = .ok i ↔ decodeWord f w = .ok i := by
  have hback : wordOfBytes (bytesOfWord f.byteCount w) = w := by
    rw [wordOfBytes_bytesOfWord, Nat.mod_eq_of_lt (hw.trans_le (two_pow_width_le f))]
  simp only [decode_eq_ok_iff, bytesOfWord_length, hback, hw, true_and]

theorem decode_encode {i : Instr} (h : i.wellFormed = true) : decode i.format (encode i) = .ok i :=
  (decode_bytesOfWord_eq_ok_iff (encodeWord_lt i)).mpr (decodeWord_encodeWord h)

theorem encode_of_decode {f : Format} {bytes : List Byte} {i : Instr} (h : decode f bytes = .ok i) :
    i.format = f ∧ i.wellFormed = true ∧ encode i = bytes := by
  obtain ⟨hlen, hlt, hword⟩ := decode_eq_ok_iff.mp h
  obtain ⟨hformat, hwf, hencode⟩ := decodeWord_hasWord hlt hword
  exact ⟨hformat, hwf, by rw [encode, hformat, hencode, ← hlen, bytesOfWord_wordOfBytes]⟩

/-- The decoder reads a well-formed instruction from its word, written in a table row of the instruction's format. -/
theorem decodeTableWord_encodeWord {n : Nat} {i : Instr} (hf : formatOfBits n = some i.format) (h : i.wellFormed = true) :
    decodeTableWord n (encodeWord i) = some i := by
  have hdecode : decode i.format (bytesOfWord i.format.byteCount (encodeWord i)) = .ok i := decode_encode h
  simp only [decodeTableWord, hf, hdecode]

/-! ## The obligations -/

/-- Settles O5: the bytes of `encode` decode as the word of `encodeWord`, and each port's decoder undoes its encoder. -/
theorem decodeEncodeAgree : Obligations.DecodeEncodeAgree := by
  unfold Obligations.DecodeEncodeAgree
  exact fun _ h => decode_encode h

/-- Settles O6: what each port's decoder answers has the word it was given (`Instr.HasWord`), and the bytes are those of the word. -/
theorem encodeDecodeAgree : Obligations.EncodeDecodeAgree := by
  unfold Obligations.EncodeDecodeAgree
  exact fun _ _ _ h => encode_of_decode h

/-- Settles O10: each of the seven words is the word of its operation, and decodes to it as every well-formed operation's does. -/
theorem decodedWords : Obligations.DecodedWords := by
  unfold Obligations.DecodedWords
  refine ⟨?update, ?read, ?illegal, ?emit, ?skip, ?send, ?delay⟩
  case update => exact decodeTableWord_encodeWord (i := .updateLevels #v[0, 2, 5, 0, 0, 100, 0, 0]) rfl rfl
  case read => exact decodeTableWord_encodeWord (i := .readSnapshot) rfl rfl
  case illegal => exact decodeTableWord_encodeWord (i := .illegalRdArg 1) rfl rfl
  case emit => exact decodeTableWord_encodeWord (i := .emit 0x26 2) rfl rfl
  case skip => exact decodeTableWord_encodeWord (i := .skip 0xFF) rfl rfl
  case send => exact decodeTableWord_encodeWord (i := .send 0x26) rfl rfl
  case delay => exact decodeTableWord_encodeWord (i := .delay 2550) rfl rfl

end Sys2Proof
end

section
/-! The operation maps by mask and match, and the place of every field in the words of the ports (R61 to R65, R68, R70, R71). -/

namespace Sys2Proof

/-! ## Fields of a word -/

/-- A field of a field is a field of the word. -/
theorem extractLsb'_extractLsb'_add {n m i len : Nat} (x : BitVec n) (start : Nat) (h : i + len ≤ m) :
    (x.extractLsb' start m).extractLsb' i len = x.extractLsb' (start + i) len := by
  apply BitVec.eq_of_getLsbD_eq
  intro j hj
  have hin : i + j < m := by omega
  simp only [BitVec.getLsbD_extractLsb', hj, hin, decide_true, Bool.true_and, Nat.add_assoc]

/-- The level of channel `c` is `HC[8c+7 : 8c]` (R61, R64). -/
theorem unpackLevels_hcArg (w : HcWord) : unpackLevels (hcArg w) = Vector.ofFn fun c => w.extractLsb' (8 * c.val) 8 := by
  unfold unpackLevels hcArg
  congr
  funext c
  exact BitVec.extractLsb'_extractLsb'_of_le (by omega)

/-- Step `k` of a `DATA` word is `HR[40k+39 : 40k]` (R62, R63, R65). -/
theorem unpackSequence_hrData (w : HrWord) (k : StepIndex) :
    (unpackSequence (hrData w))[k] = ⟨w.extractLsb' (40 * k.val) 32, w.extractLsb' (40 * k.val + 32) 8⟩ := by
  have hstep : (hrData w).extractLsb' (40 * k.val) 40 = w.extractLsb' (40 * k.val) 40 :=
    BitVec.extractLsb'_extractLsb'_of_le (by omega)
  rw [Fin.getElem_fin, unpackSequence, Vector.getElem_ofFn, hstep, stepOfWord,
    extractLsb'_extractLsb'_add _ _ (by decide), extractLsb'_extractLsb'_add _ _ (by decide), Nat.add_zero]

/-! ## Masks -/

theorem hcWord_and (op op' : BitVec 2) (arg arg' : LvWord) :
    hcWord op arg &&& hcWord op' arg' = hcWord (op &&& op') (arg &&& arg') := BitVec.and_append

theorem stepWord_and (s s' : Step) : stepWord s &&& stepWord s' = stepWord ⟨s.mask &&& s'.mask, s.dur &&& s'.dur⟩ :=
  BitVec.and_append

/-- The mask of `UPDATE_LEVELS` keeps the field `op`. -/
theorem and_opMask (w : HcWord) : w &&& 0x30000000000000000 = hcWord (hcOp w) 0 := by
  have hmask : (0x30000000000000000 : HcWord) = hcWord (.allOnes 2) 0 := by decide
  calc w &&& 0x30000000000000000 = hcWord (hcOp w) (hcArg w) &&& hcWord (.allOnes 2) 0 := by rw [hcWord_fields, hmask]
    _ = hcWord (hcOp w) 0 := by rw [hcWord_and, BitVec.and_allOnes]; exact congrArg _ BitVec.and_zero

/-- The mask of `READ_SNAPSHOT` keeps the whole word. -/
theorem and_wordMask (w : HcWord) : w &&& 0x3FFFFFFFFFFFFFFFF = w := BitVec.and_allOnes

/-- The mask of `SKIP` keeps the duration. -/
theorem and_durMask (w : StWord) : w &&& 0xFF00000000 = stepWord ⟨0, (stepOfWord w).dur⟩ := by
  have hmask : (0xFF00000000 : StWord) = stepWord ⟨0, .allOnes 8⟩ := by decide
  calc w &&& 0xFF00000000 = stepWord (stepOfWord w) &&& stepWord ⟨0, .allOnes 8⟩ := by rw [stepWord_stepOfWord, hmask]
    _ = stepWord ⟨(stepOfWord w).mask &&& 0, (stepOfWord w).dur⟩ := by rw [stepWord_and, BitVec.and_allOnes]
    _ = stepWord ⟨0, (stepOfWord w).dur⟩ := by rw [show (stepOfWord w).mask &&& 0 = 0 from BitVec.and_zero]

theorem and_opMask_eq_update_iff (w : HcWord) : w &&& 0x30000000000000000 = 0x10000000000000000 ↔ hcOp w = 0b01 := by
  have hmatch : (0x10000000000000000 : HcWord) = hcWord 0b01 0 := by decide
  rw [and_opMask, hmatch]
  exact BitVec.append_left_inj 0

theorem and_durMask_eq_zero_iff (w : StWord) : w &&& 0xFF00000000 = 0 ↔ (stepOfWord w).dur = 0 := by
  have hzero : (0 : StWord) = stepWord ⟨0, 0⟩ := by decide
  rw [and_durMask, hzero]
  exact BitVec.append_left_inj 0

/-! ## The host command map by fields -/

section HostCommand

variable {w : HcWord}

theorem decodeHostCommand_of_op01 (hop : hcOp w = 0b01) : decodeHostCommand w = .updateLevels (unpackLevels (hcArg w)) := by
  simp [decodeHostCommand, hop]

theorem decodeHostCommand_of_op00 (hop : hcOp w = 0b00) : decodeHostCommand w = .illegalOp00 (hcArg w) := by
  simp [decodeHostCommand, hop]

theorem decodeHostCommand_of_op11 (hop : hcOp w = 0b11) : decodeHostCommand w = .illegalOp11 (hcArg w) := by
  simp [decodeHostCommand, hop]

theorem decodeHostCommand_of_op10 (hop : hcOp w = 0b10) (harg : hcArg w ≠ 0) :
    decodeHostCommand w = .illegalRdArg (hcArg w) := by
  have harg' : hcArg w ≠ 0#64 := harg
  simp [decodeHostCommand, hop, harg']

theorem decodeHostCommand_readSnapshot : decodeHostCommand 0x20000000000000000 = .readSnapshot := by decide

end HostCommand

/-! ## The obligations -/

/-- Settles O7: the mask of `UPDATE_LEVELS` keeps `op`, the mask of `READ_SNAPSHOT` keeps the whole word, and the decoder answers by `op`
and `arg`. -/
theorem hostCommandMap : Obligations.HostCommandMap := by
  unfold Obligations.HostCommandMap
  intro w
  refine ⟨fun hw => ?update, fun hw => ?read, decodeHostCommand_of_op00, decodeHostCommand_of_op11, decodeHostCommand_of_op10⟩
  case update => rw [decodeHostCommand_of_op01 ((and_opMask_eq_update_iff w).mp hw), unpackLevels_hcArg]
  case read => rw [and_wordMask] at hw; rw [hw, decodeHostCommand_readSnapshot]

/-- Settles O9: `ACK`, `DATA` and `ERR` are `hrWord` of their kind and data, and unpacking gives back the Steps that were packed. -/
theorem responseWords : Obligations.ResponseWords := by
  unfold Obligations.ResponseWords
  refine ⟨hrKind_hrWord _ _, hrData_hrWord _ _, hrKind_hrWord _ _, hrData_hrWord _ _, fun q => ⟨hrKind_hrWord _ _, fun k => ?step⟩,
    fun w hkind => ?reserved⟩
  case step =>
    have hq : unpackSequence (hrData (encodeResponse (.data q))) = q := by
      rw [encodeResponse, hrData_hrWord, unpackSequence_packSequence]
    have hk := unpackSequence_hrData (encodeResponse (.data q)) k
    rw [hq] at hk
    rw [hk]
    exact ⟨rfl, rfl⟩
  case reserved =>
    have hzero : hrKind w = 0b00 := hkind
    simp [decodeResponse, hzero]

/-- Settles O8: the mask of `SKIP` keeps the duration, and the decoder answers by whether it is 0. -/
theorem stepWordMap : Obligations.StepWordMap := by
  unfold Obligations.StepWordMap
  intro w
  unfold decodeStepWord
  exact ⟨fun hw => if_pos ((and_durMask_eq_zero_iff w).mp hw), fun hw => if_neg (mt (and_durMask_eq_zero_iff w).mpr hw)⟩

end Sys2Proof
end

section
/-! The delay count (R69, R116), and the word a turn takes: the turn runs what the word decodes to (R68, R70, R71, R141, R147, R171, R172). -/

namespace Sys2Proof.Machine

/-! ## The delay count -/

/-- The count fits 16 bits, since `255 × 257 = 65535`. -/
theorem delayCount_toNat (q : Quantum) (dur : Duration) : (delayCount q dur).toNat = dur.toNat * q.val := by
  have hmax : dur.toNat * q.val ≤ 255 * 257 := Nat.mul_le_mul (Nat.le_of_lt_succ dur.isLt) q.le
  rw [delayCount, BitVec.toNat_ofNat]
  exact Nat.mod_eq_of_lt (by omega)

/-! ## The bytes of a port's word -/

/-- On the bytes of a word of its port a decoder is decoding of the word. -/
theorem decodeWord_of_bytes {f : Format} (w : BitVec f.width) {i : Instr}
    (h : decode f (bytesOfWord f.byteCount w.toNat) = .ok i) : decodeWord f w.toNat = .ok i :=
  (decode_bytesOfWord_eq_ok_iff w.isLt).mp h

theorem decode_hc_bytes {w : HcWord} {i : Instr} (h : decode .hc (bytesOfWord 9 w.toNat) = .ok i) :
    decodeHostCommand w = i :=
  Except.ok.inj ((decodeWord_hc w).symm.trans (decodeWord_of_bytes (f := .hc) w h))

theorem decode_hr_bytes {w : HrWord} {i : Instr} (h : decode .hr (bytesOfWord 46 w.toNat) = .ok i) :
    decodeResponse w = .ok i :=
  (decodeWord_hr w).symm.trans (decodeWord_of_bytes (f := .hr) w h)

theorem decode_st_bytes {w : StWord} {i : Instr} (h : decode .st (bytesOfWord 5 w.toNat) = .ok i) :
    decodeStepWord w = i :=
  Except.ok.inj ((decodeWord_st w).symm.trans (decodeWord_of_bytes (f := .st) w h))

theorem decode_tbs_bytes {w : TbsWord} {i : Instr} (h : decode .tbs (bytesOfWord 4 w.toNat) = .ok i) : .send w = i :=
  Except.ok.inj ((decodeWord_tbs w).symm.trans (decodeWord_of_bytes (f := .tbs) w h))

theorem decode_tbd_bytes {w : TbdWord} {i : Instr} (h : decode .tbd (bytesOfWord 2 w.toNat) = .ok i) : .delay w = i :=
  Except.ok.inj ((decodeWord_tbd w).symm.trans (decodeWord_of_bytes (f := .tbd) w h))

/-! ## A turn that takes a word -/

variable {s : State} {i : Instr}

theorem exec_eq_next (i : Instr) (s : State) : ∃ t, exec i s = .next t := by
  cases i <;> exact ⟨_, rfl⟩

/-- A turn that fetches `i` is `exec` of `i`, and then the agent's own change `f`. -/
theorem step_of_fetch (hf : fetch s.turn s.atTurn = some i) {f : State → State}
    (hsettle : ∀ t, settle s.turn.agent i t = f t) : ∃ t, exec i s.atTurn = .next t ∧ step s = .next (f t) := by
  obtain ⟨t, ht⟩ := exec_eq_next i s.atTurn
  exact ⟨t, ht, by simp only [step, runTurn, hf, ht, hsettle]⟩

/-- Where the agent has nothing to settle, the step is `exec`. -/
theorem step_eq_exec_of_fetch (hf : fetch s.turn s.atTurn = some i) (hsettle : ∀ t, settle s.turn.agent i t = t) :
    step s = exec i s.atTurn := by
  obtain ⟨t, ht, hstep⟩ := step_of_fetch hf hsettle
  rw [hstep, ht]

theorem settle_host (ha : s.turn.agent = .host) (i : Instr) (t : State) : settle s.turn.agent i t = t := by
  rw [ha]; rfl

/-- A step word sets the streamer's phase itself. -/
theorem settle_stepWord (ha : s.turn.agent = .strm) (w : StWord) (t : State) :
    settle s.turn.agent (decodeStepWord w) t = t := by
  rw [ha]
  unfold decodeStepWord
  split <;> rfl

theorem settle_send (ha : s.turn.agent = .strm) (w : TbsWord) (t : State) :
    settle s.turn.agent (.send w) t = { t with sph := .dly } := by
  rw [ha]; rfl

theorem settle_delay (ha : s.turn.agent = .strm) (n : TbdWord) (t : State) :
    settle s.turn.agent (.delay n) t = { t with sph := .wait } := by
  rw [ha]; rfl

theorem settle_boundary (ha : s.turn.agent = .boundary) (i : Instr) (t : State) :
    settle s.turn.agent i t = { t with tbPort := none } := by
  rw [ha]; rfl

/-! ## What is fetched -/

@[simp] theorem State.atTurn_hph (s : State) : s.atTurn.hph = s.hph := rfl

@[simp] theorem State.atTurn_sph (s : State) : s.atTurn.sph = s.sph := rfl

@[simp] theorem State.atTurn_tbPort (s : State) : s.atTurn.tbPort = s.tbPort := rfl

@[simp] theorem State.atTurn_inputs (s : State) : s.atTurn.inputs = s.turn.inputs := rfl

@[simp] theorem State.atTurn_durZero (s : State) : s.atTurn.durZero = s.durZero := rfl

@[simp] theorem State.atTurn_currentStep (s : State) : s.atTurn.currentStep = s.currentStep := rfl

@[simp] theorem responseWord_atTurn (s : State) : responseWord s.atTurn = responseWord s := rfl

theorem fetch_command {w : HcWord} (ha : s.turn.agent = .host) (hg : s.turn.grain = .whole) (hp : s.hph = .idle)
    (ho : s.turn.inputs.offer = some w) : fetch s.turn s.atTurn = some (decodeHostCommand w) := by
  simp [fetch, fetchHost, ha, hg, hp, ho]

theorem fetch_response (ha : s.turn.agent = .host) (hp : s.hph = .rsp) (hr : s.turn.inputs.hostReady = true)
    (hd : decodeResponse (responseWord s) = .ok i) : fetch s.turn s.atTurn = some i := by
  simp [fetch, fetchHost, ha, hp, hr, hd, Except.toOption]

theorem fetch_stepWord_whole (ha : s.turn.agent = .strm) (hg : s.turn.grain = .whole) (hp : s.sph = .step) :
    fetch s.turn s.atTurn = some (decodeStepWord (stepWord s.currentStep)) := by
  simp [fetch, fetchStreamer, ha, hg, hp]

theorem fetch_stepWord_micro (ha : s.turn.agent = .strm) (hg : s.turn.grain = .micro) (hp : s.sph = .step)
    (hd : s.durZero = true) : fetch s.turn s.atTurn = some (decodeStepWord (stepWord s.currentStep)) := by
  simp [fetch, fetchStreamer, ha, hg, hp, hd]

theorem fetch_send (ha : s.turn.agent = .strm) (hg : s.turn.grain = .micro) (hp : s.sph = .step)
    (hd : s.durZero = false) (hr : s.turn.inputs.tbReady = true) :
    fetch s.turn s.atTurn = some (.send s.currentStep.mask) := by
  simp [fetch, fetchStreamer, decodeSend, sendOperand, ha, hg, hp, hd, hr]

theorem fetch_delay (ha : s.turn.agent = .strm) (hg : s.turn.grain = .micro) (hp : s.sph = .dly) :
    fetch s.turn s.atTurn = some (.delay (delayCount s.quantum s.currentStep.dur)) := by
  simp [fetch, fetchStreamer, decodeDelay, delayOperand, ha, hg, hp]

theorem fetch_standing_send {w : TbsWord} (ha : s.turn.agent = .boundary) (hq : s.tbPort = some (.send w))
    (hr : s.turn.inputs.tbReady = true) : fetch s.turn s.atTurn = some (.send w) := by
  simp [fetch, fetchBoundary, decodeSend, ha, hq, hr]

theorem fetch_standing_delay {n : TbdWord} (ha : s.turn.agent = .boundary) (hq : s.tbPort = some (.delay n)) :
    fetch s.turn s.atTurn = some (.delay n) := by
  simp [fetch, fetchBoundary, decodeDelay, ha, hq]

end Sys2Proof.Machine

namespace Sys2Proof

open Machine

/-- Settles O11: in each clause the word is what the turn fetches (the `fetch_` lemmas), and a turn that fetches an instruction is its `exec`
and then `settle`. -/
theorem stepRunsDecodedWord : Obligations.StepRunsDecodedWord := by
  unfold Obligations.StepRunsDecodedWord
  intro s i
  refine ⟨?command, ?response, ?whole, ?skip, ?send, ?delay, ?standingSend, ?standingDelay⟩
  case command =>
    intro w ha hg hp ho hd
    cases decode_hc_bytes hd
    exact step_eq_exec_of_fetch (fetch_command ha hg hp ho) (settle_host ha _)
  case response =>
    intro ha hp hr hd
    exact step_eq_exec_of_fetch (fetch_response ha hp hr (decode_hr_bytes hd)) (settle_host ha i)
  case whole =>
    intro ha hg hp hd
    cases decode_st_bytes hd
    exact step_eq_exec_of_fetch (fetch_stepWord_whole ha hg hp) (settle_stepWord ha _)
  case skip =>
    intro ha hg hp hdur hd
    cases decode_st_bytes hd
    exact step_eq_exec_of_fetch (fetch_stepWord_micro ha hg hp (beq_iff_eq.mpr hdur)) (settle_stepWord ha _)
  case send =>
    intro ha hg hp hdur hr hd
    cases decode_tbs_bytes hd
    exact step_of_fetch (fetch_send ha hg hp ((durZero_eq_false_iff s).mpr hdur) hr) (settle_send ha _)
  case delay =>
    intro ha hg hp hd
    cases decode_tbd_bytes hd
    exact step_of_fetch (fetch_delay ha hg hp) (settle_delay ha _)
  case standingSend =>
    intro w ha hq hr hd
    cases decode_tbs_bytes hd
    exact step_of_fetch (fetch_standing_send ha hq hr) (settle_boundary ha _)
  case standingDelay =>
    intro n ha hq hd
    cases decode_tbd_bytes hd
    exact step_of_fetch (fetch_standing_delay ha hq) (settle_boundary ha _)

/-- Settles O55: the count does not wrap, and the bounds are those of the duration, 1 to 255. -/
theorem delayCountExact : Obligations.DelayCountExact := by
  unfold Obligations.DelayCountExact
  intro q dur
  rw [delayCount_toNat]
  refine ⟨rfl, fun hdur => ?lower, Nat.mul_le_mul_right _ (Nat.le_of_lt_succ dur.isLt)⟩
  case lower =>
    have hpos : 0 < dur.toNat := Nat.pos_of_ne_zero fun hzero => hdur (BitVec.eq_of_toNat_eq hzero)
    exact Nat.le_mul_of_pos_left _ hpos

end Sys2Proof
end

section
/-! The loop of `REFLECT` (R93, R94) in closed form: the mask of step `k` holds the channels from place `k` on, and the durations are the
steps between the boundary times. Both are proved of the loop from any channels, mask and `prev`, by induction on the channels. -/

namespace Sys2Proof.Machine

/-! ## Masks -/

/-- The mask whose bits are the channels `cs`. -/
def channelMask (cs : List Channel) : Mask := cs.foldr (fun c mask => mask ||| 1#32 <<< c.val) 0

theorem channelMask_cons (c : Channel) (cs : List Channel) :
    channelMask (c :: cs) = channelMask cs ||| 1#32 <<< c.val := rfl

theorem channelMask_getLsbD (cs : List Channel) (i : Nat) :
    (channelMask cs).getLsbD i = true ↔ ∃ c ∈ cs, c.val = i := by
  induction cs with
  | nil => simp [channelMask]
  | cons c cs ih =>
    have hc := c.isLt
    simp only [channelMask_cons, BitVec.getLsbD_or, Bool.or_eq_true, ih, List.exists_mem_cons_iff]
    have hbit : (1#32 <<< c.val).getLsbD i = true ↔ c.val = i := by
      simp
      omega
    rw [hbit, or_comm]

theorem channelMask_getLsbD_channel (cs : List Channel) (c : Channel) :
    (channelMask cs).getLsbD c.val = true ↔ c ∈ cs := by
  rw [channelMask_getLsbD]
  exact ⟨fun ⟨d, hd, hval⟩ => Fin.ext hval ▸ hd, fun hc => ⟨c, hc, rfl⟩⟩

theorem channelMask_getLsbD_of_ge (cs : List Channel) {i : Nat} (hi : 8 ≤ i) : (channelMask cs).getLsbD i = false := by
  rw [Bool.eq_false_iff, ne_eq, channelMask_getLsbD]
  rintro ⟨c, -, hc⟩
  have := c.isLt
  omega

/-- A channel mask depends on which channels are in the list only. -/
theorem channelMask_congr {cs ds : List Channel} (h : ∀ c, c ∈ cs ↔ c ∈ ds) : channelMask cs = channelMask ds := by
  refine BitVec.eq_of_getLsbD_eq fun i _ => Bool.eq_iff_iff.mpr ?_
  simp only [channelMask_getLsbD, h]

theorem maskInit_eq_channelMask : Config.maskInit = channelMask channels := by decide

theorem clearChannel_channelMask {c : Channel} {cs : List Channel} (hc : c ∉ cs) :
    clearChannel (channelMask (c :: cs)) c = channelMask cs := by
  refine BitVec.eq_of_getLsbD_eq fun i _ => Bool.eq_iff_iff.mpr ?_
  simp only [clearChannel_getLsbD, Bool.and_eq_true, decide_eq_true_eq, channelMask_getLsbD]
  constructor
  · rintro ⟨⟨d, hd, rfl⟩, hne⟩
    exact ⟨d, (List.mem_cons.mp hd).resolve_left fun h => hne (congrArg Fin.val h), rfl⟩
  · rintro ⟨d, hd, rfl⟩
    exact ⟨⟨d, List.mem_cons_of_mem _ hd, rfl⟩, fun h => hc (Fin.ext h ▸ hd)⟩

/-- As many bits are set as there are channels. -/
theorem channelMask_bitCount {cs : List Channel} (h : cs.Nodup) :
    ((List.range 32).filter fun b => (channelMask cs).getLsbD b).length = cs.length := by
  have hperm : ((List.range 32).filter fun b => (channelMask cs).getLsbD b).Perm (cs.map Fin.val) := by
    refine (List.perm_ext_iff_of_nodup (List.nodup_range.filter _) (h.map Fin.val_injective)).mpr fun b => ?_
    simp only [List.mem_filter, List.mem_range, channelMask_getLsbD, List.mem_map, and_iff_right_iff_imp]
    rintro ⟨c, -, rfl⟩
    exact Nat.lt_trans c.isLt (by decide)
  simpa using hperm.length_eq

/-- Step `k` of the loop has the channels not yet cleared; the trailing step has none (R93, R94). -/
theorem reflectLoop_mask {l : Levels} {cs : List Channel} {p : Duration} {k : Nat} {st : Step} (hnodup : cs.Nodup)
    (h : (reflectLoop l cs (channelMask cs) p)[k]? = some st) : st.mask = channelMask (cs.drop k) := by
  induction cs generalizing p k with
  | nil =>
    cases k with
    | zero => cases h; rfl
    | succ k => cases h
  | cons c cs ih =>
    obtain ⟨hc, hcs⟩ := List.nodup_cons.mp hnodup
    cases k with
    | zero => cases h; rfl
    | succ k =>
      rw [reflectLoop, List.getElem?_cons_succ, clearChannel_channelMask hc] at h
      exact ih hcs h

/-! ## Durations -/

/-- The boundaries between the intervals of the loop from `prev = p`: `p`, the levels of the channels, 255 (R93, R94). -/
def boundaryTimes (l : Levels) (p : Duration) (cs : List Channel) : List Nat :=
  p.toNat :: cs.map (fun c => l[c].toNat) ++ [255]

theorem transitionTimes_eq_boundaryTimes (l : Levels) : transitionTimes l = boundaryTimes l 0 (sortChannels l) := rfl

@[simp] theorem boundaryTimes_length (l : Levels) (p : Duration) (cs : List Channel) :
    (boundaryTimes l p cs).length = cs.length + 2 := by
  simp [boundaryTimes]

theorem boundaryTimes_cons (l : Levels) (p : Duration) (c : Channel) (cs : List Channel) :
    boundaryTimes l p (c :: cs) = p.toNat :: boundaryTimes l l[c] cs := rfl

/-- `prev` and the levels to come ascend: the loop subtracts a smaller number from a larger one each time (R95). -/
structure LevelsAscend (l : Levels) (p : Duration) (cs : List Channel) : Prop where
  above : ∀ c ∈ cs, p ≤ l[c]
  ascending : cs.Pairwise fun a b => l[a] ≤ l[b]

theorem LevelsAscend.tail {l : Levels} {p : Duration} {c : Channel} {cs : List Channel}
    (h : LevelsAscend l p (c :: cs)) : p ≤ l[c] ∧ LevelsAscend l l[c] cs := by
  obtain ⟨hlevel, hrest⟩ := List.pairwise_cons.mp h.ascending
  exact ⟨h.above c List.mem_cons_self, hlevel, hrest⟩

theorem LevelsAscend.zero {l : Levels} {cs : List Channel} (h : cs.Pairwise fun a b => l[a] ≤ l[b]) :
    LevelsAscend l 0 cs :=
  ⟨fun _ _ => Nat.zero_le _, h⟩

theorem boundaryTimes_pairwise {l : Levels} {p : Duration} {cs : List Channel} (h : LevelsAscend l p cs) :
    (boundaryTimes l p cs).Pairwise (· ≤ ·) := by
  obtain ⟨hp, hcs⟩ := h
  have hle (d : Duration) : d.toNat ≤ 255 := Nat.le_of_lt_succ d.isLt
  have hlevels : (cs.map fun c => l[c].toNat).Pairwise (· ≤ ·) := List.pairwise_map.mpr hcs
  simp only [boundaryTimes, List.pairwise_append, List.pairwise_cons, List.mem_map, List.mem_cons]
  refine ⟨⟨?_, hlevels⟩, by simp, ?_⟩
  · rintro _ ⟨c, hc, rfl⟩
    exact hp c hc
  · rintro _ (rfl | ⟨c, -, rfl⟩) _ (rfl | ⟨⟨⟩⟩)
    · exact hle p
    · exact hle l[c]

/-- A duration between ascending levels does not wrap (R95). -/
theorem duration_add_sub {a b : Duration} (h : a ≤ b) : a.toNat + (b - a).toNat = b.toNat := by
  rw [BitVec.toNat_sub_of_le h, Nat.add_sub_cancel' h]

/-- Each duration is the exact difference of two boundaries (R93 to R95). -/
theorem boundaryTimes_add_dur {l : Levels} {cs : List Channel} {m : Mask} {p : Duration} {k : Nat} {st : Step}
    (hasc : LevelsAscend l p cs) (h : (reflectLoop l cs m p)[k]? = some st) :
    (boundaryTimes l p cs).getD k 0 + st.dur.toNat = (boundaryTimes l p cs).getD (k + 1) 0 := by
  induction cs generalizing m p k with
  | nil =>
    cases k with
    | zero => cases h; exact duration_add_sub (Nat.le_of_lt_succ p.isLt)
    | succ k => cases h
  | cons c cs ih =>
    obtain ⟨hc, htail⟩ := hasc.tail
    rw [boundaryTimes_cons]
    cases k with
    | zero => cases h; exact duration_add_sub hc
    | succ k => exact ih htail h

/-- The loop's first `k` durations reach from the first boundary to the `k`-th. -/
theorem boundaryTimes_eq_sum_durations {l : Levels} {cs : List Channel} {m : Mask} {p : Duration} {k : Nat}
    (hasc : LevelsAscend l p cs) (hk : k ≤ cs.length + 1) :
    p.toNat + (((reflectLoop l cs m p).take k).map fun st => st.dur.toNat).sum = (boundaryTimes l p cs).getD k 0 := by
  induction k with
  | zero => rfl
  | succ k ih =>
    have hlt : k < (reflectLoop l cs m p).length := by rw [reflectLoop_length]; omega
    rw [← boundaryTimes_add_dur hasc (List.getElem?_eq_getElem hlt), ← ih (by omega), List.map_take, List.map_take,
      List.sum_take_succ _ _ (by simpa using hlt), List.getElem_map, Nat.add_assoc]

/-- The loop counts each level above `prev` once, and the trailing step unless it ends at 255 (R99). -/
theorem reflectLoop_countP_dur {l : Levels} {cs : List Channel} {m : Mask} {p : Duration} (hasc : LevelsAscend l p cs) :
    (reflectLoop l cs m p).countP (fun st => st.dur != 0) =
      ((cs.map fun c => l[c]).toFinset.erase p).card + if 255 ∈ p :: cs.map fun c => l[c] then 0 else 1 := by
  induction cs generalizing m p with
  | nil =>
    have htrail : Config.cycle - p = 0#8 ↔ 255#8 = p := by
      unfold Config.cycle
      bv_omega
    simp [reflectLoop, htrail]
  | cons c cs ih =>
    obtain ⟨hc, htail⟩ := hasc.tail
    rw [reflectLoop, List.countP_cons, ih htail, List.map_cons, List.toFinset_cons]
    by_cases hdur : l[c] - p = 0
    · have heq : l[c] = p := by bv_omega
      simp [heq]
    · have hne : l[c] ≠ p := fun heq => hdur (by simp [heq])
      have hlt : p < l[c] := by bv_omega
      have habove : p ∉ insert l[c] (cs.map fun c => l[c]).toFinset := by
        rw [Finset.mem_insert, List.mem_toFinset, List.mem_map]
        rintro (heq | ⟨d, hd, rfl⟩)
        · exact hne heq.symm
        · exact BitVec.not_le.mpr hlt (htail.above d hd)
      have hend : ¬ (255 : Level) = p := by bv_omega
      rw [Finset.erase_eq_of_notMem habove, ← Finset.card_erase_add_one (Finset.mem_insert_self _ _),
        Finset.erase_insert_eq_erase]
      simp only [List.mem_cons, hend, false_or, bne_iff_ne, ne_eq, hdur, not_false_eq_true, if_true]
      omega

end Sys2Proof.Machine
end

section
/-! Ascending orders of the eight channels (R91, R101): what the Steps made along one of them are, and that `sortChannels` is one. -/

namespace Sys2Proof.Machine

/-! ## Any ascending order -/

/-- `ord` holds each channel once, in ascending order of level; ties may stand either way round (R91, R101). -/
structure AscendingOrder (l : Levels) (ord : List Channel) : Prop where
  perm : ord.Perm channels
  ascending : ord.Pairwise fun a b => l[a] ≤ l[b]

section Order

variable {l : Levels} {ord ord' : List Channel} {j k : Nat} {c : Channel} {st : Step}

theorem AscendingOrder.length_eq (h : AscendingOrder l ord) : ord.length = 8 := h.perm.length_eq

theorem AscendingOrder.nodup (h : AscendingOrder l ord) : ord.Nodup := h.perm.nodup_iff.mpr (by decide)

theorem AscendingOrder.mem (h : AscendingOrder l ord) (c : Channel) : c ∈ ord := h.perm.mem_iff.mpr (by simp)

/-- Every channel has a place in the order. -/
theorem AscendingOrder.exists_place (h : AscendingOrder l ord) (c : Channel) : ∃ j, j < 8 ∧ ord[j]? = some c := by
  obtain ⟨j, hj, hc⟩ := List.mem_iff_getElem.mp (h.mem c)
  exact ⟨j, h.length_eq ▸ hj, List.getElem?_eq_some_iff.mpr ⟨hj, hc⟩⟩

/-- The channels from place `k` on are those whose place is not before `k`. -/
theorem AscendingOrder.mem_drop_iff (h : AscendingOrder l ord) (hc : ord[j]? = some c) : c ∈ ord.drop k ↔ k ≤ j := by
  obtain ⟨hj, rfl⟩ := List.getElem?_eq_some_iff.mp hc
  rw [List.mem_drop_iff_getElem]
  constructor
  · rintro ⟨i, hi, heq⟩
    have := h.nodup.getElem_inj_iff.mp heq
    omega
  · exact fun hk => ⟨j - k, by omega, by simp [Nat.add_sub_cancel' hk]⟩

theorem AscendingOrder.levelsAscend (h : AscendingOrder l ord) : LevelsAscend l 0 ord := .zero h.ascending

/-- The boundary after place `j` is the level of the channel there. -/
theorem boundaryTimes_getD_succ (p : Duration) (hc : ord[j]? = some c) :
    (boundaryTimes l p ord).getD (j + 1) 0 = l[c].toNat := by
  obtain ⟨hj, rfl⟩ := List.getElem?_eq_some_iff.mp hc
  simp [boundaryTimes, hj, List.getElem?_append_left]

theorem AscendingOrder.boundaryTimes_getD_nine (h : AscendingOrder l ord) : (boundaryTimes l 0 ord).getD 9 0 = 255 := by
  simp [boundaryTimes, h.length_eq]

theorem AscendingOrder.boundaryTimes_mono (h : AscendingOrder l ord) {i : Nat} (hij : i ≤ j) (hj : j ≤ 9) :
    (boundaryTimes l 0 ord).getD i 0 ≤ (boundaryTimes l 0 ord).getD j 0 := by
  rcases Nat.eq_or_lt_of_le hij with rfl | hlt
  · exact Nat.le_refl _
  · have hlen : (boundaryTimes l 0 ord).length = 10 := by rw [boundaryTimes_length, h.length_eq]
    rw [List.getD_eq_getElem _ _ (by omega), List.getD_eq_getElem _ _ (by omega)]
    exact List.pairwise_iff_getElem.mp (boundaryTimes_pairwise h.levelsAscend) _ _ _ _ hlt

/-- The Steps made along `ord` (R92 to R94). -/
def stepsAlong (l : Levels) (ord : List Channel) : List Step := reflectLoop l ord Config.maskInit 0

theorem AscendingOrder.stepsAlong_length (h : AscendingOrder l ord) : (stepsAlong l ord).length = 9 := by
  rw [stepsAlong, reflectLoop_length, h.length_eq]

theorem AscendingOrder.mask_eq (h : AscendingOrder l ord) (hst : (stepsAlong l ord)[k]? = some st) :
    st.mask = channelMask (ord.drop k) := by
  have hinit : Config.maskInit = channelMask ord :=
    maskInit_eq_channelMask.trans (channelMask_congr fun _ => h.perm.mem_iff.symm)
  rw [stepsAlong, hinit] at hst
  exact reflectLoop_mask h.nodup hst

theorem AscendingOrder.add_dur (h : AscendingOrder l ord) (hst : (stepsAlong l ord)[k]? = some st) :
    (boundaryTimes l 0 ord).getD k 0 + st.dur.toNat = (boundaryTimes l 0 ord).getD (k + 1) 0 :=
  boundaryTimes_add_dur h.levelsAscend hst

theorem AscendingOrder.sum_durations (h : AscendingOrder l ord) (hk : k ≤ 9) :
    (((stepsAlong l ord).take k).map fun st => st.dur.toNat).sum = (boundaryTimes l 0 ord).getD k 0 := by
  rw [← boundaryTimes_eq_sum_durations h.levelsAscend (by rw [h.length_eq]; exact hk)]
  exact (Nat.zero_add _).symm

/-- A step is effective exactly when its interval is not empty (R99). -/
theorem AscendingOrder.dur_ne_zero_iff (h : AscendingOrder l ord) (hst : (stepsAlong l ord)[k]? = some st) :
    st.dur ≠ 0 ↔ (boundaryTimes l 0 ord).getD k 0 < (boundaryTimes l 0 ord).getD (k + 1) 0 := by
  have hdur : st.dur = 0 ↔ st.dur.toNat = 0 := BitVec.toNat_inj.symm
  have := h.add_dur hst
  rw [ne_eq, hdur]
  omega

/-- A channel is ON in the steps up to its place (R97). -/
theorem AscendingOrder.mask_getLsbD (h : AscendingOrder l ord) (hst : (stepsAlong l ord)[k]? = some st)
    (hc : ord[j]? = some c) : st.mask.getLsbD c.val = decide (k ≤ j) := by
  rw [h.mask_eq hst, Bool.eq_iff_iff, channelMask_getLsbD_channel, h.mem_drop_iff hc, decide_eq_true_iff]

/-- In an effective step the channels ON are those whose level is above its start: the place of a tied channel does not show (R101). -/
theorem AscendingOrder.mem_drop_iff_of_effective (h : AscendingOrder l ord)
    (heff : (boundaryTimes l 0 ord).getD k 0 < (boundaryTimes l 0 ord).getD (k + 1) 0) (hk : k ≤ 8) (c : Channel) :
    c ∈ ord.drop k ↔ (boundaryTimes l 0 ord).getD k 0 < l[c].toNat := by
  obtain ⟨j, hj, hc⟩ := h.exists_place c
  rw [h.mem_drop_iff hc, ← boundaryTimes_getD_succ 0 hc]
  constructor
  · exact fun hkj => heff.trans_le (h.boundaryTimes_mono (by omega) (by omega))
  · intro hlt
    by_contra hjk
    exact absurd (h.boundaryTimes_mono (i := j + 1) (j := k) (by omega) (by omega)) (Nat.not_le.mpr hlt)

/-! ## Two ascending orders -/

/-- The sorted levels, and so the boundaries, are the same for all ascending orders (R101). -/
theorem AscendingOrder.boundaryTimes_eq (h : AscendingOrder l ord) (h' : AscendingOrder l ord') :
    boundaryTimes l 0 ord = boundaryTimes l 0 ord' := by
  have hlevels : ord.map (fun c => l[c].toNat) = ord'.map fun c => l[c].toNat :=
    ((h.perm.trans h'.perm.symm).map _).eq_of_pairwise' (r := (· ≤ ·)) (List.pairwise_map.mpr h.ascending)
      (List.pairwise_map.mpr h'.ascending)
  rw [boundaryTimes, hlevels, boundaryTimes]

theorem AscendingOrder.dur_eq (h : AscendingOrder l ord) (h' : AscendingOrder l ord') {st' : Step}
    (hst : (stepsAlong l ord)[k]? = some st) (hst' : (stepsAlong l ord')[k]? = some st') : st.dur = st'.dur := by
  have hadd := h.add_dur hst
  rw [h.boundaryTimes_eq h', ← h'.add_dur hst'] at hadd
  exact BitVec.eq_of_toNat_eq (Nat.add_left_cancel hadd)

theorem AscendingOrder.mask_eq_of_effective (h : AscendingOrder l ord) (h' : AscendingOrder l ord') {st' : Step}
    (hst : (stepsAlong l ord)[k]? = some st) (hst' : (stepsAlong l ord')[k]? = some st') (hdur : st.dur ≠ 0) :
    st.mask = st'.mask := by
  obtain ⟨hk, -⟩ := List.getElem?_eq_some_iff.mp hst
  rw [h.stepsAlong_length] at hk
  have heff := (h.dur_ne_zero_iff hst).mp hdur
  have heff' := (h'.dur_ne_zero_iff hst').mp (h.dur_eq h' hst hst' ▸ hdur)
  rw [h.mask_eq hst, h'.mask_eq hst']
  refine channelMask_congr fun c => ?_
  rw [h.mem_drop_iff_of_effective heff (by omega), h'.mem_drop_iff_of_effective heff' (by omega), h.boundaryTimes_eq h']

/-- A step's events show its duration, and its mask only where that is not 0 (R114, R119). -/
theorem stepEvents_congr (q : Quantum) {st st' : Step} (hdur : st.dur = st'.dur)
    (hmask : st.dur ≠ 0 → st.mask = st'.mask) : stepEvents q st = stepEvents q st' := by
  unfold stepEvents
  by_cases hzero : st.dur = 0
  · rw [if_pos hzero, if_pos (hdur ▸ hzero)]
  · rw [if_neg hzero, if_neg (hdur ▸ hzero), hdur, hmask hzero]

theorem AscendingOrder.flatMap_stepEvents_eq (h : AscendingOrder l ord) (h' : AscendingOrder l ord') (q : Quantum) :
    (stepsAlong l ord).flatMap (stepEvents q) = (stepsAlong l ord').flatMap (stepEvents q) := by
  have hmap : (stepsAlong l ord).map (stepEvents q) = (stepsAlong l ord').map (stepEvents q) := by
    refine List.ext_getElem (by simp [h.stepsAlong_length, h'.stepsAlong_length]) fun k hk hk' => ?_
    rw [List.length_map] at hk hk'
    have hst := List.getElem?_eq_getElem hk
    have hst' := List.getElem?_eq_getElem hk'
    rw [List.getElem_map, List.getElem_map]
    exact stepEvents_congr q (h.dur_eq h' hst hst') (h.mask_eq_of_effective h' hst hst')
  rw [List.flatMap_def, List.flatMap_def, hmap]

end Order

/-! ## The order of the block -/

theorem sortChannels_ascendingOrder (l : Levels) : AscendingOrder l (sortChannels l) :=
  ⟨sortChannels_perm l, (sortChannels_sorted l).imp sortKey_le_imp_level_le⟩

/-- The keys ascend strictly: no two channels share one (R91). -/
theorem sortChannels_strictlySorted (l : Levels) :
    (sortChannels l).Pairwise fun a b => sortKey l a < sortKey l b :=
  (sortChannels_sorted l).imp₂ (fun _ _ hle hne => Nat.lt_of_le_of_ne hle ((sortKey_injective l).ne hne))
    (sortChannels_nodup l)

theorem eq_sortChannels {l : Levels} {ord : List Channel} (hperm : ord.Perm channels)
    (hsorted : ord.Pairwise fun a b => sortKey l a < sortKey l b) : ord = sortChannels l :=
  (hperm.trans (sortChannels_perm l).symm).eq_of_pairwise
    (fun _ _ _ _ hab hba => absurd hab (Nat.lt_asymm hba)) hsorted (sortChannels_strictlySorted l)

theorem reflectSteps_eq_stepsAlong (l : Levels) : reflectSteps l = stepsAlong l (sortChannels l) := rfl

theorem stepsAlong_getElem?_reflect (l : Levels) {k : Nat} (hk : k < 9) :
    (stepsAlong l (sortChannels l))[k]? = some (reflect l)[k] := by
  rw [← reflectSteps_eq_stepsAlong, ← reflect_toList, Vector.getElem?_toList, Vector.getElem?_eq_getElem hk]

/-- The levels in sorted order are the levels. -/
theorem map_sortChannels_perm (l : Levels) : ((sortChannels l).map fun c => l[c]).Perm l.toList := by
  have hlevels : channels.map (fun c => l[c]) = l.toList :=
    List.ext_getElem (by simp) fun i _ _ => by simp
  exact hlevels ▸ (sortChannels_perm l).map _

/-- Where `p` holds of the first `n` elements and of none after them, filtering by `p` leaves the first `n`. -/
theorem filter_eq_take {α : Type} {p : α → Bool} {xs : List α} {n : Nat}
    (h : ∀ i x, xs[i]? = some x → p x = decide (i < n)) : xs.filter p = xs.take n := by
  have hbefore : (xs.take n).filter p = xs.take n := by
    refine List.filter_eq_self.mpr fun x hx => ?_
    obtain ⟨i, hi, rfl⟩ := List.mem_take_iff_getElem.mp hx
    rw [h i _ (List.getElem?_eq_getElem (by omega)), decide_eq_true_iff]
    omega
  have hafter : (xs.drop n).filter p = [] := by
    refine List.filter_eq_nil_iff.mpr fun x hx => ?_
    obtain ⟨i, hi, rfl⟩ := List.mem_drop_iff_getElem.mp hx
    rw [h (n + i) _ (List.getElem?_eq_getElem (by omega)), decide_eq_true_iff]
    omega
  calc xs.filter p = (xs.take n ++ xs.drop n).filter p := by rw [List.take_append_drop]
    _ = xs.take n := by rw [List.filter_append, hbefore, hafter, List.append_nil]

theorem durationSum_reflect (l : Levels) : durationSum (reflect l) = 255 := by
  have h := sortChannels_ascendingOrder l
  have hsum := h.sum_durations (Nat.le_refl 9)
  rw [List.take_of_length_le h.stepsAlong_length.le, h.boundaryTimes_getD_nine] at hsum
  rw [durationSum, reflect_toList, reflectSteps_eq_stepsAlong, hsum]

/-- The durations up to a channel's place add up to its level (R97). -/
theorem sum_durations_upTo_place {l : Levels} {c : Channel} {p : Nat} (hc : (sortChannels l)[p]? = some c) :
    (((reflect l).toList.take (p + 1)).map fun st => st.dur.toNat).sum = l[c].toNat := by
  obtain ⟨hp, -⟩ := List.getElem?_eq_some_iff.mp hc
  rw [sortChannels_length] at hp
  rw [reflect_toList, reflectSteps_eq_stepsAlong, (sortChannels_ascendingOrder l).sum_durations (by omega),
    boundaryTimes_getD_succ 0 hc]

theorem onDuration_reflect {l : Levels} {c : Channel} {p : Nat} (hc : (sortChannels l)[p]? = some c) :
    onDuration (reflect l) c = l[c].toNat := by
  have hon : (reflect l).toList.filter (fun st => st.mask.getLsbD c.val) = (reflect l).toList.take (p + 1) := by
    refine filter_eq_take fun k st hst => ?_
    rw [reflect_toList, reflectSteps_eq_stepsAlong] at hst
    rw [(sortChannels_ascendingOrder l).mask_getLsbD hst hc]
    exact decide_eq_decide.mpr Nat.lt_succ_iff.symm
  rw [onDuration, hon, sum_durations_upTo_place hc]

/-- R99's count of the effective steps. -/
theorem effectiveCount_reflect (l : Levels) :
    effectiveCount (reflect l) =
      ((l.toList.filter (· ≠ 0)).dedup).length + if (255 : Level) ∈ l.toList then 0 else 1 := by
  have hperm := map_sortChannels_perm l
  have hdistinct : (l.toList.filter (· ≠ 0)).toFinset = l.toList.toFinset.erase 0 := by
    rw [← List.filter_toFinset, Finset.filter_ne']
  have hfull : (255 : Level) ∈ (0 : Level) :: (sortChannels l).map (fun c => l[c]) ↔ (255 : Level) ∈ l.toList := by
    rw [List.mem_cons, hperm.mem_iff]
    exact or_iff_right (by decide)
  rw [effectiveCount, reflect_toList, reflectSteps,
    reflectLoop_countP_dur (sortChannels_ascendingOrder l).levelsAscend, List.toFinset_eq_of_perm _ _ hperm,
    ← hdistinct, List.card_toFinset]
  simp only [hfull]

theorem effectiveCount_reflect_pos (l : Levels) : 1 ≤ effectiveCount (reflect l) := by
  rw [effectiveCount_reflect]
  split
  case isTrue hfull =>
    have hmem : (255 : Level) ∈ (l.toList.filter (· ≠ 0)).dedup := by simpa using hfull
    exact Nat.add_zero _ ▸ List.length_pos_of_mem hmem
  case isFalse => exact Nat.le_add_left 1 _

theorem effectiveCount_le (q : Sequence) : effectiveCount q ≤ 9 := List.countP_le_length.trans_eq q.length_toList

end Sys2Proof.Machine

namespace Sys2Proof

open Machine

/-- Settles O48: the sorted list is strictly ascending because the keys differ, and two strictly ascending orders of the same channels are
equal. -/
theorem sortOrder : Obligations.SortOrder := by
  unfold Obligations.SortOrder
  exact fun l => ⟨sortChannels_perm l, sortChannels_strictlySorted l, fun _ => eq_sortChannels⟩

/-- Settles O49: the loop subtracts the boundary before a step from the one after it, and the boundaries ascend. -/
theorem durationsAreExactDifferences : Obligations.DurationsAreExactDifferences := by
  unfold Obligations.DurationsAreExactDifferences
  intro l k
  have hget (i : Nat) (hi : i < 10) : (transitionTimes l)[i]? = some ((transitionTimes l).getD i 0) := by
    have hlen : i < (transitionTimes l).length := by simpa [transitionTimes] using hi
    rw [List.getElem?_eq_getElem hlen, List.getD_eq_getElem _ _ hlen]
  refine ⟨hget k.val (by omega), ?_⟩
  rw [hget (k.val + 1) (by omega), transitionTimes_eq_boundaryTimes]
  exact congrArg some ((sortChannels_ascendingOrder l).add_dur (stepsAlong_getElem?_reflect l k.isLt)).symm

/-- Settles O50: the differences telescope from 0 to 255. -/
theorem durationsSumTo255 : Obligations.DurationsSumTo255 := by
  unfold Obligations.DurationsSumTo255
  exact durationSum_reflect

/-- Settles O51: the steps with a channel's bit set are those up to its place, and their durations telescope from 0 to its level. -/
theorem onDurationIsLevel : Obligations.OnDurationIsLevel := by
  unfold Obligations.OnDurationIsLevel
  intro l c p hc
  refine ⟨fun k => ?_, sum_durations_upTo_place hc, onDuration_reflect hc⟩
  exact (sortChannels_ascendingOrder l).mask_getLsbD (stepsAlong_getElem?_reflect l k.isLt) hc

/-- Settles O52: the mask of step `k` is that of the channels from place `k` on. -/
theorem maskShape : Obligations.MaskShape := by
  unfold Obligations.MaskShape
  intro l
  have h := sortChannels_ascendingOrder l
  have hmask {k : Nat} (hk : k < 9) : (reflect l)[k].mask = channelMask ((sortChannels l).drop k) :=
    h.mask_eq (stepsAlong_getElem?_reflect l hk)
  refine ⟨?first, fun k => ?shape, fun k c hc => ?next⟩
  case first =>
    rw [hmask, List.drop_zero]
    exact (channelMask_congr fun _ => h.perm.mem_iff).trans maskInit_eq_channelMask.symm
  case shape =>
    rw [show (reflect l)[k].mask = _ from hmask k.isLt]
    refine ⟨?_, fun b => channelMask_getLsbD_of_ge _, channelMask_getLsbD_channel _⟩
    rw [channelMask_bitCount (h.nodup.sublist (List.drop_sublist _ _)), List.length_drop, h.length_eq]
  case next =>
    obtain ⟨hk, rfl⟩ := List.getElem?_eq_some_iff.mp hc
    have hdrop := List.drop_eq_getElem_cons hk
    have hnodup : (sortChannels l)[k.val] ∉ (sortChannels l).drop (k.val + 1) :=
      (List.nodup_cons.mp (hdrop ▸ h.nodup.sublist (List.drop_sublist k.val _))).1
    rw [hmask (by omega), hmask (by omega)]
    refine ⟨(channelMask_getLsbD_channel _ _).mpr (hdrop ▸ List.mem_cons_self), ?_⟩
    rw [hdrop]
    exact (clearChannel_channelMask hnodup).symm

/-- Settles O53: a step is effective when its interval is not empty; the last starts at the largest level; each distinct non-zero level
ends one effective step. -/
theorem effectiveStepCount : Obligations.EffectiveStepCount := by
  unfold Obligations.EffectiveStepCount
  intro l
  have h := sortChannels_ascendingOrder l
  rw [transitionTimes_eq_boundaryTimes]
  refine ⟨fun k => h.dur_ne_zero_iff (stepsAlong_getElem?_reflect l k.isLt), ?trailing, effectiveCount_reflect l,
    effectiveCount_reflect_pos l, effectiveCount_le _⟩
  case trailing =>
    rw [h.dur_ne_zero_iff (stepsAlong_getElem?_reflect l (by decide)), h.boundaryTimes_getD_nine]
    constructor
    · intro hlast c
      obtain ⟨j, hj, hc⟩ := h.exists_place c
      have hle := h.boundaryTimes_mono (i := j + 1) (j := 8) (by omega) (by omega)
      rw [boundaryTimes_getD_succ 0 hc] at hle
      exact hle.trans_lt hlast
    · intro hall
      have hlast : (sortChannels l)[7]? = some _ := List.getElem?_eq_getElem (by simp)
      rw [boundaryTimes_getD_succ 0 hlast]
      exact hall _

/-- Settles O54: two ascending orders give the same boundaries, so the same durations, and an effective step shows the channels above its
start whatever the order. -/
theorem tieBreakInvisible : Obligations.TieBreakInvisible := by
  unfold Obligations.TieBreakInvisible
  intro l ord ord' hperm hperm' hasc hasc'
  have h : AscendingOrder l ord := ⟨hperm, hasc⟩
  have h' : AscendingOrder l ord' := ⟨hperm', hasc'⟩
  exact ⟨fun k st st' hst hst' => ⟨h.dur_eq h' hst hst', h.mask_eq_of_effective h' hst hst'⟩,
    h.flatMap_stepEvents_eq h'⟩

end Sys2Proof
end

section
/-! The streamer's micro-steps phase by phase (R111 to R118): what a one-micro-step turn makes of the state, in each phase and for each input
that decides it. -/

namespace Sys2Proof.Machine

variable {s : State}

/-- ADVANCE (R118) names the two registers it writes. -/
theorem State.advance_eq (s : State) :
    s.advance = { s with
      idx := if s.idx = 8 then 0 else s.idx + 1, sph := if s.idx = 8 then .acq else .step } := by
  unfold State.advance
  split <;> rfl

theorem durZero_eq_true_iff (s : State) : s.durZero = true ↔ s.snap[s.idx].dur = 0 := by
  simp [State.durZero, State.currentStep]

theorem step_of_strm_micro (ha : s.turn.agent = .strm) (hg : s.turn.grain = .micro) :
    step s = .next (microTurn .strm s.atTurn) := by
  rw [step_of_strm ha, hg]
  rfl

/-! ## The snapshot section -/

theorem microTurn_strm_of_lock_free (hp : s.sph = .acq) (hl : s.lock = .free) :
    microTurn .strm s = (s.setLock .strm).setSph .copy := by
  simp [microTurn, agentMicro, strmMicro, sAcq, State.acquire, State.lockFree, hp, hl]

theorem microTurn_strm_of_lock_taken (hp : s.sph = .acq) (hl : s.lock ≠ .free) : microTurn .strm s = s := by
  simp [microTurn, agentMicro, strmMicro, sAcq, State.acquire, State.lockFree, hp, hl]

/-! ## The Step in hand -/

theorem sSend_of_accepted (hd : s.durZero = false) (hr : s.inputs.tbReady = true) :
    sSend s = some ((takeSend (sendOperand s) s).setSph .dly) := by
  simp [sSend, hd, hr]

theorem sSend_of_refused (hr : s.inputs.tbReady = false) : sSend s = none := by
  simp [sSend, hr]

theorem microTurn_strm_of_dly (hp : s.sph = .dly) :
    microTurn .strm s = (takeDelay (delayOperand s) s).setSph .wait := by
  simp [microTurn, agentMicro, strmMicro, sDly, hp]

theorem microTurn_strm_of_done (hp : s.sph = .wait) (hdone : s.delayDone = true) :
    microTurn .strm s = ((s.setDelayDone false).emitTb .delayDone).advance := by
  simp [microTurn, agentMicro, strmMicro, sResume, hp, hdone]

theorem microTurn_strm_of_not_done (hp : s.sph = .wait) (hdone : s.delayDone = false) : microTurn .strm s = s := by
  simp [microTurn, agentMicro, strmMicro, sResume, hp, hdone]

end Sys2Proof.Machine

namespace Sys2Proof

open Machine

/-- Settles O28: S.ACQ is enabled exactly when the lock is free. -/
theorem streamerAcquireStep : Obligations.StreamerAcquireStep := by
  unfold Obligations.StreamerAcquireStep
  intro s ha hg hp
  rw [step_of_strm_micro ha hg]
  exact ⟨fun hl => congrArg _ (microTurn_strm_of_lock_free (s := s.atTurn) hp hl),
    fun hl => congrArg _ (microTurn_strm_of_lock_taken (s := s.atTurn) hp hl)⟩

/-- Settles O29: S.COPY has no guard but its phase. -/
theorem streamerCopyStep : Obligations.StreamerCopyStep := by
  unfold Obligations.StreamerCopyStep
  intro s ha hg hp
  rw [step_of_strm_micro ha hg, microTurn_strm_of_copy (s := s.atTurn) hp]
  rfl

/-- Settles O30: S.REL has no guard but its phase. -/
theorem streamerReleaseStep : Obligations.StreamerReleaseStep := by
  unfold Obligations.StreamerReleaseStep
  intro s ha hg hp
  rw [step_of_strm_micro ha hg, microTurn_strm_of_rel (s := s.atTurn) hp]
  rfl

/-- Settles O31: at a Step of duration 0 a turn of either grain is ADVANCE alone. -/
theorem streamerSkipStep : Obligations.StreamerSkipStep := by
  unfold Obligations.StreamerSkipStep
  intro s ha hp hdur
  have hd : s.atTurn.durZero = true := (durZero_eq_true_iff s).mpr hdur
  have hskip : streamerTurn s.turn.grain s.atTurn = s.atTurn.advance := by
    cases s.turn.grain with
    | micro => exact microTurn_strm_skip hp hd
    | whole => simp [streamerTurn, wholeStreamerTurn, hp, hd]
  rw [step_of_strm ha, hskip, State.advance_eq]
  rfl

/-- Settles O32: at an effective Step the turn is S.SEND, which is enabled exactly when the boundary accepts. -/
theorem streamerSendStep : Obligations.StreamerSendStep := by
  unfold Obligations.StreamerSendStep
  intro s ha hg hp hdur
  have hd : s.atTurn.durZero = false := (durZero_eq_false_iff s).mpr hdur
  rw [step_of_strm_micro ha hg, microTurn_strm_send (s := s.atTurn) hp hd]
  refine ⟨fun hr => ?accepted, fun hr => ?refused⟩
  case accepted =>
    rw [sSend_of_accepted hd hr]
    rfl
  case refused =>
    rw [sSend_of_refused hr]
    rfl

/-- Settles O33: S.DLY has no guard but its phase. -/
theorem streamerDelayStep : Obligations.StreamerDelayStep := by
  unfold Obligations.StreamerDelayStep
  intro s ha hg hp
  rw [step_of_strm_micro ha hg, microTurn_strm_of_dly (s := s.atTurn) hp]
  rfl

/-- Settles O34: S.RESUME is enabled exactly when a `DELAY_DONE` stands there, and ends in ADVANCE. -/
theorem streamerResumeStep : Obligations.StreamerResumeStep := by
  unfold Obligations.StreamerResumeStep
  intro s ha hg hp
  rw [step_of_strm_micro ha hg]
  refine ⟨fun hdone => ?given, fun hdone => congrArg _ (microTurn_strm_of_not_done (s := s.atTurn) hp hdone)⟩
  case given =>
    rw [microTurn_strm_of_done (s := s.atTurn) hp hdone, State.advance_eq]
    rfl

end Sys2Proof
end

section
/-! The step words as wholes (R114, R119): `SKIP` is ADVANCE; `EMIT` waits for the boundary to accept or to complete, or ends in ADVANCE. -/

namespace Sys2Proof.Machine

variable {s : State}

/-! ## The word at `SNAP[IDX]` -/

theorem currentStep_eq (s : State) : s.currentStep = s.snap[s.idx] := rfl

/-- In `S_STEP` the word at `SNAP[IDX]` is the one executed. -/
theorem atStep_of_snap {st : Step} (hp : s.sph = .step) (hst : s.snap[s.idx] = st) : s.atStep st = true := by
  simp [State.atStep, currentStep_eq, hp, hst]

theorem execSkip_of_atStep {mask : Mask} (hp : s.sph = .step) (hst : s.snap[s.idx] = ⟨mask, 0⟩) :
    exec (.skip mask) s = .next s.advance := by
  have hd : s.durZero = true := (durZero_eq_true_iff s).mpr (by rw [hst])
  simp only [exec, execSkip, atStep_of_snap hp hst, sSkip, hd, if_true, Option.getD_some]

theorem execEmit_of_atStep {mask : Mask} {dur : Duration} (hp : s.sph = .step) (hst : s.snap[s.idx] = ⟨mask, dur⟩) :
    exec (.emit mask dur) s = .next (runEmit s) := by
  simp [exec, execEmit, atStep_of_snap hp hst]

/-! ## The `EMIT` as a whole -/

theorem runEmit_of_refused (hr : s.inputs.tbReady = false) : runEmit s = s := by
  simp [runEmit, sSend_of_refused hr]

theorem runEmit_of_sent (hd : s.durZero = false) (hr : s.inputs.tbReady = true) :
    runEmit s = finishEmit ((takeSend (sendOperand s) s).setSph .dly) := by
  simp [runEmit, sSend_of_accepted hd hr]

/-- The state in which an `EMIT` has sent its word and asked for its delay (R115, R116). -/
def State.delayAsked (s : State) : State :=
  { s with
    sph := .wait, lastWord := some s.currentStep.mask, tbPend := some (delayOperand s),
    tbTrace := s.tbTrace ++ [.send s.currentStep.mask, .delay (delayOperand s)] }

/-- With a boundary that accepts, `EMIT` gets as far as its delay. -/
theorem runEmit_of_accepted (hd : s.durZero = false) (hr : s.inputs.tbReady = true) :
    runEmit s = microTurn .strm (delayDoneNow s.delayAsked) := by
  have hdelay : microTurn .strm ((takeSend (sendOperand s) s).setSph .dly) = s.delayAsked := by
    rw [microTurn_strm_of_dly rfl, State.delayAsked, List.append_cons]
    rfl
  rw [runEmit_of_sent hd hr, finishEmit_of_dly rfl, hdelay]

/-- Inside a turn whose inputs say so, a delay that runs ends. -/
theorem delayDoneNow_of_running {n : TbdWord} (hn : s.tbPend = some n) (hdone : s.inputs.tbDone = true) :
    delayDoneNow s = { s with tbPend := none, delayDone := true } := by
  simp [delayDoneNow, giveDelayDone, hn, hdone]
  rfl

theorem delayDoneNow_of_not_done (hdone : s.inputs.tbDone = false) : delayDoneNow s = s := by
  simp [delayDoneNow, hdone]

/-- With a boundary that accepts and completes, `EMIT` is its three events and ADVANCE (R119). -/
theorem runEmit_of_completed (hd : s.durZero = false) (hr : s.inputs.tbReady = true) (hdone : s.inputs.tbDone = true) :
    runEmit s = { s with
      lastWord := some s.currentStep.mask, tbPend := none, delayDone := false,
      tbTrace := s.tbTrace ++ [.send s.currentStep.mask, .delay (delayOperand s), .delayDone],
      idx := if s.idx = 8 then 0 else s.idx + 1, sph := if s.idx = 8 then .acq else .step } := by
  rw [runEmit_of_accepted hd hr, delayDoneNow_of_running (s := s.delayAsked) rfl hdone,
    microTurn_strm_of_done rfl rfl, State.advance_eq]
  simp [State.delayAsked, State.setDelayDone, State.emitTb]

/-- With a boundary that accepts and does not complete, `EMIT` waits for it (R126). -/
theorem runEmit_of_not_completed (hd : s.durZero = false) (hr : s.inputs.tbReady = true)
    (hdone : s.inputs.tbDone = false) (hnone : s.delayDone = false) :
    runEmit s = s.delayAsked := by
  rw [runEmit_of_accepted hd hr, delayDoneNow_of_not_done (s := s.delayAsked) hdone]
  exact microTurn_strm_of_not_done rfl hnone

end Sys2Proof.Machine

namespace Sys2Proof

open Machine

/-- Settles O17: `SKIP` is ADVANCE, which moves on inside the sequence and wraps at its end. -/
theorem skipCompletes : Obligations.SkipCompletes := by
  unfold Obligations.SkipCompletes
  intro mask s hp hst
  rw [execSkip_of_atStep hp hst, State.advance_eq]
  refine ⟨fun hlast => ?wrap, fun hinner => ?next⟩
  case wrap => rw [if_pos hlast, if_pos hlast]
  case next => rw [if_neg hinner, if_neg hinner, hp]

/-- Settles O18: the boundary accepts the word and ends the delay inside the turn, so nothing is left to wait for. -/
theorem emitCompletes : Obligations.EmitCompletes := by
  unfold Obligations.EmitCompletes
  intro mask dur s hp hst hdur hr hdone
  have hd : s.durZero = false := (durZero_eq_false_iff s).mpr (by rwa [hst])
  rw [execEmit_of_atStep hp hst, runEmit_of_completed hd hr hdone, delayOperand, currentStep_eq, hst]
  rfl

/-- Settles O19: `EMIT` waits before S.SEND, or after S.DLY. -/
theorem emitWaits : Obligations.EmitWaits := by
  unfold Obligations.EmitWaits
  intro mask dur s hp hst hdur
  have hd : s.durZero = false := (durZero_eq_false_iff s).mpr (by rwa [hst])
  rw [execEmit_of_atStep hp hst]
  refine ⟨fun hr => congrArg _ (runEmit_of_refused hr), fun hr hdone hnone => ?wait⟩
  case wait =>
    rw [runEmit_of_not_completed hd hr hdone hnone, State.delayAsked, delayOperand, currentStep_eq, hst]
    rfl

end Sys2Proof
end

section
/-! The boundary trace of a cycle under every interleaving (R120). A micro-step of the streamer that does not end a Step keeps the trace at
`cycleProgress`; one that does, S.SKIP or S.RESUME, keeps it or ends the cycle; nobody else writes the trace. A whole turn ends a Step at
its end only. -/

namespace Sys2Proof.Machine

variable {s s' : State} {past : List TbEvent} {q : Quantum} {seq : Sequence}

/-! ## What `cycleProgress` is, phase by phase, and what a Step adds -/

/-- The events of the Steps before `IDX`. -/
def finishedTrace (s : State) : List TbEvent := (s.snap.toList.take s.idx.val).flatMap (stepEvents s.quantum)

theorem cycleProgress_of_betweenCycles (hp : s.sph.betweenCycles = true) : cycleProgress s = [] := by
  rcases (SPhase.betweenCycles_iff s.sph).mp hp with hp | hp | hp <;> simp [cycleProgress, hp]

theorem cycleProgress_of_step (hp : s.sph = .step) : cycleProgress s = finishedTrace s := by
  simp [cycleProgress, finishedTrace, hp]

theorem cycleProgress_of_dly (hp : s.sph = .dly) :
    cycleProgress s = finishedTrace s ++ [.send s.currentStep.mask] := by
  simp [cycleProgress, finishedTrace, hp]

theorem cycleProgress_of_wait (hp : s.sph = .wait) :
    cycleProgress s = finishedTrace s ++ [.send s.currentStep.mask, .delay (delayOperand s)] := by
  simp [cycleProgress, finishedTrace, delayOperand, hp]

theorem finishedTrace_of_first (h : s.idx = 0) : finishedTrace s = [] := by
  simp [finishedTrace, h]

theorem stepEvents_of_zero (q : Quantum) {st : Step} (hd : st.dur = 0) : stepEvents q st = [] := if_pos hd

theorem stepEvents_of_ne_zero (q : Quantum) {st : Step} (hd : st.dur ≠ 0) :
    stepEvents q st = [.send st.mask, .delay (delayCount q st.dur), .delayDone] := if_neg hd

theorem stepEvents_of_durZero (hd : s.durZero = true) : stepEvents s.quantum s.currentStep = [] :=
  stepEvents_of_zero _ ((durZero_eq_true_iff s).mp hd)

theorem stepEvents_of_effective (hd : s.durZero = false) :
    stepEvents s.quantum s.currentStep = [.send s.currentStep.mask, .delay (delayOperand s), .delayDone] :=
  stepEvents_of_ne_zero _ ((durZero_eq_false_iff s).mp hd)

/-! ## ADVANCE -/

/-- The Steps up to `IDX` are those before it and the one in hand. -/
theorem take_succ_idx (s : State) :
    s.snap.toList.take (s.idx.val + 1) = s.snap.toList.take s.idx.val ++ [s.currentStep] := by
  rw [List.take_succ_eq_append_getElem (by simp), Vector.getElem_toList]
  rfl

theorem finishedTrace_append_stepEvents (s : State) :
    finishedTrace s ++ stepEvents s.quantum s.currentStep =
      (s.snap.toList.take (s.idx.val + 1)).flatMap (stepEvents s.quantum) := by
  rw [take_succ_idx, List.flatMap_append, List.flatMap_singleton, finishedTrace]

theorem cycleProgress_advance (h : s.idx ≠ 8) :
    cycleProgress s.advance = finishedTrace s ++ stepEvents s.quantum s.currentStep := by
  have hnext : (s.idx + 1).val = s.idx.val + 1 := Fin.val_add_one_of_lt (Fin.lt_last_iff_ne_last.mpr h)
  rw [finishedTrace_append_stepEvents, State.advance_eq, if_neg h, if_neg h, cycleProgress_of_step rfl, finishedTrace, hnext]

theorem cycleTrace_of_last (h : s.idx = 8) :
    cycleTrace s.quantum s.snap = finishedTrace s ++ stepEvents s.quantum s.currentStep := by
  rw [finishedTrace_append_stepEvents, List.take_of_length_le (by simp [h]), cycleTrace]

/-! ## Following the snapshot -/

/-- After `past` the boundary trace holds the current cycle's progress. -/
def FollowsCycle (past : List TbEvent) (s : State) : Prop := s.tbTrace = past ++ cycleProgress s

/-- The cycle of the snapshot `seq` has just ended, with its whole trace after `past`. -/
def CycleEnded (past : List TbEvent) (q : Quantum) (seq : Sequence) (s : State) : Prop :=
  s.sph = .acq ∧ s.idx = 0 ∧ s.tbTrace = past ++ cycleTrace q seq

/-- ADVANCE when the Step in hand has put its events on the trace. -/
theorem followsCycle_advance (h : s.tbTrace = past ++ (finishedTrace s ++ stepEvents s.quantum s.currentStep)) :
    FollowsCycle past s.advance ∨ CycleEnded past s.quantum s.snap s.advance := by
  by_cases hlast : s.idx = 8
  · right
    rw [← cycleTrace_of_last hlast] at h
    rw [State.advance_eq, if_pos hlast, if_pos hlast]
    exact ⟨rfl, rfl, h⟩
  · left
    rw [← cycleProgress_advance hlast] at h
    rw [FollowsCycle, ← h, State.advance_eq]

theorem FollowsCycle.tbTrace_eq (hf : FollowsCycle past s) (hp : s.sph.betweenCycles = true) : s.tbTrace = past := by
  rwa [FollowsCycle, cycleProgress_of_betweenCycles hp, List.append_nil] at hf

theorem followsCycle_of_betweenCycles (hp : s.sph.betweenCycles = true) (h : s.tbTrace = past) : FollowsCycle past s := by
  rw [FollowsCycle, cycleProgress_of_betweenCycles hp, List.append_nil, h]

/-- The streamer's next micro-step, if it is enabled, ends the Step in hand: S.SKIP or S.RESUME (R114, R117). -/
def State.endsStep (s : State) : Prop := s.sph = .step ∧ s.durZero = true ∨ s.sph = .wait

theorem FollowsCycle.strmMicro_of_not_endsStep (hf : FollowsCycle past s) (h : Inv s) (hends : ¬ s.endsStep)
    (hstep : strmMicro s = some s') : FollowsCycle past s' := by
  have hbetween : s.sph = .acq ∨ s.sph = .copy ∨ s.sph = .rel → s.sph.betweenCycles = true :=
    (SPhase.betweenCycles_iff s.sph).mpr
  rcases strmMicro_cases hstep with
    ⟨hp, -, rfl⟩ | ⟨hp, rfl⟩ | ⟨hp, rfl⟩ | ⟨hp, hd, -⟩ | ⟨hp, -, -, rfl⟩ | ⟨hp, rfl⟩ | ⟨hp, -, -⟩
  · exact followsCycle_of_betweenCycles rfl (hf.tbTrace_eq (hbetween (.inl hp)))
  · exact followsCycle_of_betweenCycles rfl (hf.tbTrace_eq (hbetween (.inr (.inl hp))))
  · obtain ⟨hzero, -⟩ := h.index
    have hbefore := hbetween (.inr (.inr hp))
    have hnone : finishedTrace ((s.setLock .free).setSph .step) = [] := finishedTrace_of_first (hzero hbefore)
    rw [FollowsCycle, cycleProgress_of_step rfl, hnone, List.append_nil]
    exact hf.tbTrace_eq hbefore
  · exact absurd (.inl ⟨hp, hd⟩) hends
  · rw [FollowsCycle, cycleProgress_of_step hp] at hf
    rw [FollowsCycle, cycleProgress_of_dly rfl, ← List.append_assoc]
    exact congrArg (· ++ [_]) hf
  · rw [FollowsCycle, cycleProgress_of_dly hp] at hf
    rw [FollowsCycle, cycleProgress_of_wait rfl, List.append_cons, ← List.append_assoc]
    exact congrArg (· ++ [_]) hf
  · exact absurd (.inr hp) hends

/-- S.SKIP (R114). -/
theorem FollowsCycle.skip (hf : FollowsCycle past s) (hp : s.sph = .step) (hd : s.durZero = true) :
    FollowsCycle past s.advance ∨ CycleEnded past s.quantum s.snap s.advance := by
  rw [FollowsCycle, cycleProgress_of_step hp] at hf
  exact followsCycle_advance (by rwa [stepEvents_of_durZero hd, List.append_nil])

/-- S.RESUME (R117), at a Step that is effective since its delay was asked for. -/
theorem FollowsCycle.resume (hf : FollowsCycle past s) (h : Inv s) (hp : s.sph = .wait) :
    FollowsCycle past ((s.setDelayDone false).emitTb .delayDone).advance ∨
      CycleEnded past s.quantum s.snap ((s.setDelayDone false).emitTb .delayDone).advance := by
  obtain ⟨-, heffective⟩ := h.index
  have hevents := stepEvents_of_effective (heffective (.inr hp))
  rw [FollowsCycle, cycleProgress_of_wait hp] at hf
  refine followsCycle_advance (s := (s.setDelayDone false).emitTb .delayDone) ?_
  calc s.tbTrace ++ [.delayDone]
    _ = past ++ (finishedTrace s ++ [.send s.currentStep.mask, .delay (delayOperand s), .delayDone]) := by
      simp [hf]
    _ = past ++ (finishedTrace s ++ stepEvents s.quantum s.currentStep) := by rw [hevents]

/-! ## Turns of one micro-step -/

theorem FollowsCycle.microTurn_of_not_endsStep (hf : FollowsCycle past s) (h : Inv s) (hends : ¬ s.endsStep) :
    FollowsCycle past (microTurn .strm s) := by
  cases hm : strmMicro s with
  | none => simpa [microTurn, agentMicro, hm] using hf
  | some s' => simpa [microTurn, agentMicro, hm] using hf.strmMicro_of_not_endsStep h hends hm

theorem FollowsCycle.after_microTurn (hf : FollowsCycle past s) (h : Inv s) :
    FollowsCycle past (microTurn .strm s) ∨ CycleEnded past s.quantum s.snap (microTurn .strm s) := by
  by_cases hends : s.endsStep
  · rcases hends with ⟨hp, hd⟩ | hp
    · rw [microTurn_strm_skip hp hd]
      exact hf.skip hp hd
    · cases hdone : s.delayDone with
      | true =>
        rw [microTurn_strm_of_done hp hdone]
        exact hf.resume h hp
      | false =>
        rw [microTurn_strm_of_not_done hp hdone]
        exact .inl hf
  · exact .inl (hf.microTurn_of_not_endsStep h hends)

/-! ## Whole turns -/

theorem not_endsStep_of_betweenCycles (hp : s.sph.betweenCycles = true) : ¬ s.endsStep := by
  rcases (SPhase.betweenCycles_iff s.sph).mp hp with hp | hp | hp <;> simp [State.endsStep, hp]

theorem runSnapshot_of_inCycle (hp : s.sph.betweenCycles = false) (n : Nat) : runSnapshot n s = s := by
  cases n with
  | zero => rfl
  | succ n =>
    cases hs : s.sph with
    | step | dly | wait => simp [runSnapshot, hs]
    | acq | copy | rel => simp [hs, SPhase.betweenCycles] at hp

theorem FollowsCycle.after_runSnapshot (hf : FollowsCycle past s) (h : Inv s) (n : Nat) :
    FollowsCycle past (runSnapshot n s) := by
  induction n generalizing s with
  | zero => exact hf
  | succ n ih =>
    cases hp : s.sph.betweenCycles with
    | false => rwa [runSnapshot_of_inCycle hp]
    | true =>
      rw [runSnapshot_succ hp]
      exact ih (hf.microTurn_of_not_endsStep h (not_endsStep_of_betweenCycles hp)) (inv_microTurn h .strm)

/-- Inside the cycle of the snapshot `seq`, with its progress after `past`. -/
structure InCycle (past : List TbEvent) (q : Quantum) (seq : Sequence) (s : State) : Prop where
  inv : Inv s
  follows : FollowsCycle past s
  quantum : s.quantum = q
  snap : s.snap = seq

theorem InCycle.after_microTurn (h : InCycle past q seq s) :
    FollowsCycle past (microTurn .strm s) ∨ CycleEnded past q seq (microTurn .strm s) := by
  rw [← h.quantum, ← h.snap]
  exact h.follows.after_microTurn h.inv

/-- S.DLY (R116). -/
theorem InCycle.delay (h : InCycle past q seq s) (hp : s.sph = .dly) : InCycle past q seq (microTurn .strm s) where
  inv := inv_microTurn h.inv .strm
  follows := h.follows.microTurn_of_not_endsStep h.inv (by simp [State.endsStep, hp])
  quantum := by rw [microTurn_strm_of_dly hp]; exact h.quantum
  snap := by rw [microTurn_strm_of_dly hp]; exact h.snap

/-- S.SEND (R115). -/
theorem InCycle.send (h : InCycle past q seq s) (hp : s.sph = .step) (hd : s.durZero = false)
    (hr : s.inputs.tbReady = true) : InCycle past q seq ((takeSend (sendOperand s) s).setSph .dly) where
  inv := h.inv.strmSend hp hd _
  follows := h.follows.strmMicro_of_not_endsStep h.inv (by simp [State.endsStep, hp, hd])
    (by simp [strmMicro, hp, hd, sSend_of_accepted hd hr])
  quantum := h.quantum
  snap := h.snap

/-- The boundary's completion writes neither the trace nor the block. -/
theorem InCycle.complete (h : InCycle past q seq s) (hg : giveDelayDone s = some s') : InCycle past q seq s' := by
  have hinv : Inv s' := h.inv.complete hg
  obtain ⟨-, rfl⟩ := giveDelayDone_eq_some.mp hg
  exact ⟨hinv, h.follows, h.quantum, h.snap⟩

theorem InCycle.after_finishEmit (h : InCycle past q seq s) :
    FollowsCycle past (finishEmit s) ∨ CycleEnded past q seq (finishEmit s) := by
  have hgive : ∀ u u', giveDelayDone u = some u' → InCycle past q seq u → InCycle past q seq u' :=
    fun _ _ hg hu => hu.complete hg
  cases hp : s.sph with
  | acq | copy | rel | step => exact .inl (by simpa [finishEmit, hp] using h.follows)
  | dly =>
    rw [finishEmit_of_dly hp]
    exact (delayDoneNow_keeps hgive (h.delay hp)).after_microTurn
  | wait =>
    rw [finishEmit_of_wait hp]
    exact (delayDoneNow_keeps hgive h).after_microTurn

theorem InCycle.after_runEmit (h : InCycle past q seq s) (hp : s.sph = .step) (hd : s.durZero = false) :
    FollowsCycle past (runEmit s) ∨ CycleEnded past q seq (runEmit s) := by
  cases hr : s.inputs.tbReady with
  | false =>
    rw [runEmit_of_refused hr]
    exact .inl h.follows
  | true =>
    rw [runEmit_of_sent hd hr]
    exact (h.send hp hd hr).after_finishEmit

theorem InCycle.after_wholeStreamerTurn (h : InCycle past q seq s) :
    FollowsCycle past (wholeStreamerTurn s) ∨ CycleEnded past q seq (wholeStreamerTurn s) := by
  cases hp : s.sph with
  | acq | copy | rel =>
    simp only [wholeStreamerTurn, hp]
    exact .inl (h.follows.after_runSnapshot h.inv 3)
  | step =>
    cases hd : s.durZero with
    | true =>
      simp only [wholeStreamerTurn, hp, hd, if_true, ← microTurn_strm_skip hp hd]
      exact h.after_microTurn
    | false =>
      simp only [wholeStreamerTurn, hp, hd, Bool.false_eq_true, if_false]
      exact h.after_runEmit hp hd
  | dly | wait =>
    simp only [wholeStreamerTurn, hp]
    exact h.after_finishEmit

/-! ## Steps -/

theorem InCycle.atTurn (h : InCycle past q seq s) : InCycle past q seq s.atTurn :=
  ⟨h.inv.atTurn, h.follows, h.quantum, h.snap⟩

theorem InCycle.step_strm {t : State} (h : InCycle past q seq s) (ha : s.turn.agent = .strm) (hstep : step s = .next t) :
    FollowsCycle past t ∨ CycleEnded past q seq t := by
  rw [step_of_strm ha] at hstep
  cases hstep
  cases s.turn.grain with
  | micro => exact h.atTurn.after_microTurn
  | whole => exact h.atTurn.after_wholeStreamerTurn

/-- Of the host engine's turn the trace and what `cycleProgress` reads are outside. -/
theorem FollowsCycle.step_host {t : State} (hf : FollowsCycle past s) (ha : s.turn.agent = .host)
    (hstep : step s = .next t) : FollowsCycle past t := by
  have hout := step_outsideHost ha hstep
  simp only [State.outsideHost, Prod.mk.injEq] at hout
  obtain ⟨⟨hsnap, hidx, hsph⟩, -, -, htrace, hquantum⟩ := hout
  simpa [FollowsCycle, cycleProgress, State.currentStep, hsnap, hidx, hsph, htrace, hquantum] using hf

/-- With nothing on its port the boundary's turn is at most its completion. -/
theorem InCycle.step_boundary {t : State} (h : InCycle past q seq s) (ha : s.turn.agent = .boundary)
    (hstep : step s = .next t) : InCycle past q seq t := by
  refine step_keeps InCycle.atTurn (fun u v hm hu => ?_) hstep h
  rw [ha] at hm
  cases hm with
  | complete _ hg => exact hu.complete hg
  | takeSend w hport => simp [hu.inv.port] at hport
  | takeDelay n hport => simp [hu.inv.port] at hport

end Sys2Proof.Machine

namespace Sys2Proof

open Machine

/-- Settles O58: only a turn of the streamer writes the trace, and it either keeps it at the cycle's progress or ends the cycle. -/
theorem boundaryTraceFollowsSnapshot : Obligations.BoundaryTraceFollowsSnapshot := by
  unfold Obligations.BoundaryTraceFollowsSnapshot
  intro s t past h hf hstep
  have hin : InCycle past s.quantum s.snap s := ⟨h, hf, rfl, rfl⟩
  cases ha : s.turn.agent with
  | host => exact .inl (hin.follows.step_host ha hstep)
  | strm => exact hin.step_strm ha hstep
  | boundary => exact .inl (hin.step_boundary ha hstep).follows

end Sys2Proof
end

section
/-! Waiting and the lock (R122, R151, R222). A turn that changes nothing had no enabled micro-step to take: a command never goes back to an
earlier phase, and neither agent's turn ends in the phase of a section, or of S.DLY, in which it began. -/

namespace Sys2Proof.Machine

variable {s s' : State}

/-! ## The host engine -/

/-- How far the command in hand has come. -/
def HPhase.rank : HPhase → Nat
  | .acq => 0
  | .write | .copy => 1
  | .reflect => 2
  | .rel => 3
  | .rsp => 4
  | .idle => 5

theorem hostContinue_rank_lt (h : hostContinue s = some s') : s.hph.rank < s'.hph.rank := by
  rcases hostContinue_cases h with
    ⟨hp, -, rfl⟩ | ⟨hp, rfl⟩ | ⟨hp, rfl⟩ | ⟨hp, rfl⟩ | ⟨hp, rfl⟩ | ⟨hp, -, rfl⟩
  case inl => cases hk : s.hkind <;> simp [hp, HPhase.rank]
  all_goals simp [hp, HPhase.rank]

theorem rank_le_finishCommand (n : Nat) (s : State) : s.hph.rank ≤ (finishCommand n s).hph.rank :=
  finishCommand_keeps (P := fun u => s.hph.rank ≤ u.hph.rank) (fun _ _ h hu => hu.trans (hostContinue_rank_lt h).le)
    n s (Nat.le_refl _)

theorem hostContinue_eq_none_of_finishCommand {n : Nat} (h : finishCommand (n + 1) s = s) : hostContinue s = none := by
  cases hc : hostContinue s with
  | none => rfl
  | some s' =>
    rw [finishCommand_succ, hc, Option.getD_some] at h
    have hback : s'.hph.rank ≤ s.hph.rank := h ▸ rank_le_finishCommand n s'
    exact absurd (hostContinue_rank_lt hc) (Nat.not_lt.mpr hback)

theorem hostMicro_of_busy (hp : s.hph ≠ .idle) : hostMicro s = hostContinue s := by
  cases h : s.hph with
  | idle => exact absurd h hp
  | acq | write | reflect | copy | rel | rsp => simp [hostMicro, h]

/-- Outside `H_IDLE` a turn of the host engine is one micro-step or more of the command in hand. -/
theorem step_of_host_busy (ha : s.turn.agent = .host) (hp : s.hph ≠ .idle) :
    ∃ n, step s = .next (finishCommand (n + 1) s.atTurn) := by
  cases hg : s.turn.grain with
  | micro =>
    have hmicro : microTurn .host s.atTurn = finishCommand 1 s.atTurn := by
      rw [finishCommand_succ, ← hostMicro_of_busy (s := s.atTurn) hp]
      rfl
    exact ⟨0, by rw [step_of_micro hg, ha, hmicro]⟩
  | whole =>
    have hturn : s.turn = ⟨.host, .whole, s.turn.inputs⟩ := by rw [← ha, ← hg]
    exact ⟨4, by rw [step, hturn, runTurn_host_busy (s := s.atTurn) _ hp]⟩

/-- The phases in which no micro-step of the command in hand is enabled. -/
theorem phase_of_hostContinue_none (h : hostContinue s = none) :
    s.hph = .idle ∨ s.hph = .rsp ∨ s.hph = .acq ∧ s.lock ≠ .free := by
  cases hp : s.hph with
  | idle => exact .inl rfl
  | rsp => exact .inr (.inl rfl)
  | acq =>
    refine .inr (.inr ⟨rfl, fun hl => ?_⟩)
    have hacq : hAcq s = none := by simpa [hostContinue, hp] using h
    cases hacq.symm.trans (hAcq_eq_some.mpr ⟨hl, rfl⟩)
  | write | reflect | copy | rel => simp [hostContinue, hWrite, hReflect, hCopy, hRel, hp] at h

theorem host_waits_at (ha : s.turn.agent = .host) (hstep : step s = .next s.atTurn) :
    s.hph = .idle ∨ s.hph = .rsp ∨ s.hph = .acq ∧ s.lock ≠ .free := by
  by_cases hp : s.hph = .idle
  · exact .inl hp
  · obtain ⟨n, hn⟩ := step_of_host_busy ha hp
    have hself : finishCommand (n + 1) s.atTurn = s.atTurn := by
      rw [hn] at hstep
      exact Host.Outcome.next.inj hstep
    exact phase_of_hostContinue_none (s := s.atTurn) (hostContinue_eq_none_of_finishCommand hself)

/-! ## The streamer -/

theorem streamerTurn_sph_of_rel (hp : s.sph = .rel) (g : Grain) : (streamerTurn g s).sph = .step := by
  cases g with
  | micro => simp [streamerTurn, microTurn_strm_of_rel hp]
  | whole => simp [streamerTurn, wholeStreamerTurn, hp, runSnapshot_of_rel hp, microTurn_strm_of_rel hp]

theorem runSnapshot_sph_of_copy (hp : s.sph = .copy) (n : Nat) : (runSnapshot (n + 2) s).sph = .step := by
  have hrel : (microTurn .strm s).sph = .rel := by simp [microTurn_strm_of_copy hp]
  rw [runSnapshot_of_copy hp, microTurn_strm_of_rel hrel, State.setSph_sph]

theorem streamerTurn_sph_ne_copy (hp : s.sph = .copy) (g : Grain) : (streamerTurn g s).sph ≠ .copy := by
  cases g with
  | micro => simp [streamerTurn, microTurn_strm_of_copy hp]
  | whole => simp [streamerTurn, wholeStreamerTurn, hp, runSnapshot_sph_of_copy hp 1]

theorem streamerTurn_sph_ne_acq (hp : s.sph = .acq) (hl : s.lock = .free) (g : Grain) :
    (streamerTurn g s).sph ≠ .acq := by
  have hcopy : (microTurn .strm s).sph = .copy := by simp [microTurn_strm_of_lock_free hp hl]
  cases g with
  | micro => simp [streamerTurn, hcopy]
  | whole =>
    have hwhole : streamerTurn .whole s = runSnapshot 2 (microTurn .strm s) := by
      rw [← runSnapshot_succ (by simp [hp, SPhase.betweenCycles])]
      simp [streamerTurn, wholeStreamerTurn, hp]
    rw [hwhole, runSnapshot_sph_of_copy hcopy 0]
    decide

/-- S.RESUME leads to the next Step or the next cycle, and its wait nowhere. -/
theorem microTurn_strm_sph_ne_dly (hp : s.sph = .wait) : (microTurn .strm s).sph ≠ .dly := by
  cases hdone : s.delayDone with
  | false => simp [microTurn_strm_of_not_done hp hdone, hp]
  | true =>
    rw [microTurn_strm_of_done hp hdone, State.advance_eq]
    simp only
    split <;> decide

theorem streamerTurn_sph_ne_dly (hp : s.sph = .dly) (g : Grain) : (streamerTurn g s).sph ≠ .dly := by
  have hwait : (microTurn .strm s).sph = .wait := by simp [microTurn_strm_of_dly hp]
  cases g with
  | micro => simp [streamerTurn, hwait]
  | whole =>
    simp only [streamerTurn, wholeStreamerTurn, hp, finishEmit_of_dly hp]
    exact microTurn_strm_sph_ne_dly ((delayDoneNow_sph _).trans hwait)

theorem streamer_waits_at (ha : s.turn.agent = .strm) (hstep : step s = .next s.atTurn) :
    s.sph = .step ∨ s.sph = .wait ∨ s.sph = .acq ∧ s.lock ≠ .free := by
  rw [step_of_strm ha] at hstep
  have hsame : (streamerTurn s.turn.grain s.atTurn).sph = s.sph := by rw [Host.Outcome.next.inj hstep, State.atTurn_sph]
  cases hp : s.sph with
  | step => exact .inl rfl
  | wait => exact .inr (.inl rfl)
  | acq =>
    exact .inr (.inr ⟨rfl, fun hl => streamerTurn_sph_ne_acq (s := s.atTurn) hp hl _ (hsame.trans hp)⟩)
  | copy => exact absurd (hsame.trans hp) (streamerTurn_sph_ne_copy (s := s.atTurn) hp _)
  | rel => cases (streamerTurn_sph_of_rel (s := s.atTurn) hp _).symm.trans (hsame.trans hp)
  | dly => exact absurd (hsame.trans hp) (streamerTurn_sph_ne_dly (s := s.atTurn) hp _)

/-! ## The lock -/

/-- The host engine waits outside its section. -/
theorem LockOwned.lock_ne_host (h : LockOwned s) (hp : s.hph = .idle ∨ s.hph = .rsp ∨ s.hph = .acq ∧ s.lock ≠ .free) :
    s.lock ≠ .host := by
  obtain ⟨hhost, -⟩ := h
  rw [ne_eq, hhost]
  rcases hp with hp | hp | ⟨hp, -⟩ <;> simp [hp, HPhase.holdsLock]

/-- The streamer waits outside its section. -/
theorem LockOwned.lock_ne_strm (h : LockOwned s) (hp : s.sph = .step ∨ s.sph = .wait ∨ s.sph = .acq ∧ s.lock ≠ .free) :
    s.lock ≠ .strm := by
  obtain ⟨-, hstrm⟩ := h
  rw [ne_eq, hstrm]
  rcases hp with hp | hp | ⟨hp, -⟩ <;> simp [hp, SPhase.holdsLock]

end Sys2Proof.Machine

namespace Sys2Proof

open Machine

/-- Settles O46: the phases in which a turn can leave its agent waiting are all outside its critical section. -/
theorem noWaitWithLock : Obligations.NoWaitWithLock := by
  unfold Obligations.NoWaitWithLock
  refine fun s h hstep => ⟨fun ha => ?host, fun ha => ?strm⟩
  case host =>
    have hp := host_waits_at ha hstep
    exact ⟨h.lock.lock_ne_host hp, hp⟩
  case strm =>
    have hp := streamer_waits_at ha hstep
    exact ⟨h.lock.lock_ne_strm hp, hp⟩

end Sys2Proof
end

section
/-! One cycle with a willing boundary (R120, log entry 2): the snapshot section, and then one whole turn for each of the nine Steps, by
induction on how many are left. -/

namespace Sys2Proof.Machine

variable {s t : State} {i : Inputs}

/-! ## One whole turn -/

/-- From `s`, in `S_STEP`, the Step in hand has been run and nothing else: its events are on the trace and ADVANCE is done (R118). -/
structure StepRun (s t : State) : Prop where
  tbTrace : t.tbTrace = s.tbTrace ++ stepEvents s.quantum s.currentStep
  snap : t.snap = s.snap
  lock : t.lock = s.lock
  quantum : t.quantum = s.quantum
  idx : t.idx = if s.idx = 8 then 0 else s.idx + 1
  sph : t.sph = if s.idx = 8 then .acq else .step

theorem stepRun_of_willing (hp : s.sph = .step) (hr : s.inputs.tbReady = true) (hdone : s.inputs.tbDone = true) :
    StepRun s (wholeStreamerTurn s) := by
  cases hd : s.durZero with
  | true =>
    have hskip : wholeStreamerTurn s = s.advance := by simp [wholeStreamerTurn, hp, hd]
    rw [hskip, State.advance_eq]
    exact ⟨by rw [stepEvents_of_durZero hd, List.append_nil], rfl, rfl, rfl, rfl, rfl⟩
  | false =>
    have hemit : wholeStreamerTurn s = runEmit s := by simp [wholeStreamerTurn, hp, hd]
    rw [hemit, runEmit_of_completed hd hr hdone]
    exact ⟨by rw [stepEvents_of_effective hd], rfl, rfl, rfl, rfl, rfl⟩

/-- From `s`, in `S_ACQ`, the snapshot section has been run and nothing else (R110 step 1). -/
structure SnapshotRun (s t : State) : Prop where
  tbTrace : t.tbTrace = s.tbTrace
  snap : t.snap = s.steps
  lock : t.lock = .free
  quantum : t.quantum = s.quantum
  idx : t.idx = s.idx
  sph : t.sph = .step

theorem snapshotRun_of_lock_free (hp : s.sph = .acq) (hl : s.lock = .free) : SnapshotRun s (wholeStreamerTurn s) := by
  have hwhole : wholeStreamerTurn s = microTurn .strm (microTurn .strm (microTurn .strm s)) := by
    simp only [wholeStreamerTurn, hp]
    exact runSnapshot_of_acq hp
  rw [hwhole, microTurn_strm_of_lock_free hp hl, microTurn_strm_of_copy (State.setSph_sph _ _),
    microTurn_strm_of_rel (State.setSph_sph _ _)]
  exact ⟨rfl, rfl, rfl, rfl, rfl, rfl⟩

/-- A run that begins with a whole turn of the streamer. -/
theorem run_wholeStreamerTurn {ts : List Turn} (n : Nat) (hs : s.sched = ⟨.strm, .whole, i⟩ :: ts) :
    Sys2Proof.core.run (n + 1) s = Sys2Proof.core.run n (wholeStreamerTurn (s.beginTurn i ts)) := by
  have hturn : s.turn = ⟨.strm, .whole, i⟩ := by simp [State.turn, hs]
  have hat : s.atTurn = s.beginTurn i ts := by rw [State.atTurn, hturn, hs, List.tail_cons]
  have hstep := step_of_strm (s := s) (by rw [hturn])
  rw [hturn, hat] at hstep
  exact run_of_step n hstep

/-- The turns to come are the host's side's, which the streamer does not write. -/
theorem wholeStreamerTurn_sched (s : State) : (wholeStreamerTurn s).sched = s.sched :=
  (congrArg State.sched (wholeStreamerTurn_hostSideBlind.keeps s)).symm

/-! ## The nine Steps -/

/-- From `s`, in `S_STEP`, the Steps from `IDX` on have been run, and the cycle has ended. -/
structure CycleRun (s t : State) : Prop where
  tbTrace : t.tbTrace = s.tbTrace ++ (s.snap.toList.drop s.idx.val).flatMap (stepEvents s.quantum)
  snap : t.snap = s.snap
  lock : t.lock = s.lock
  idx : t.idx = 0
  sph : t.sph = .acq

/-- The Steps from `IDX` on are the one in hand and those after it. -/
theorem drop_idx (s : State) : s.snap.toList.drop s.idx.val = s.currentStep :: s.snap.toList.drop (s.idx.val + 1) := by
  rw [List.drop_eq_getElem_cons (by simp), Vector.getElem_toList]
  rfl

/-- The last Step ends the cycle. -/
theorem StepRun.cycleRun (h : StepRun s t) (hlast : s.idx = 8) : CycleRun s t where
  tbTrace := by
    have hover : s.snap.toList.drop (s.idx.val + 1) = [] := List.drop_of_length_le (by simp [hlast])
    rw [h.tbTrace, drop_idx, hover, List.flatMap_singleton]
  snap := h.snap
  lock := h.lock
  idx := by rw [h.idx, if_pos hlast]
  sph := by rw [h.sph, if_pos hlast]

theorem StepRun.idx_val (h : StepRun s t) (hinner : s.idx ≠ 8) : t.idx.val = s.idx.val + 1 := by
  rw [h.idx, if_neg hinner]
  exact Fin.val_add_one_of_lt (Fin.lt_last_iff_ne_last.mpr hinner)

/-- Another Step is followed by the rest of the cycle. -/
theorem StepRun.trans_cycleRun {u : State} (h : StepRun s u) (hinner : s.idx ≠ 8) (hrest : CycleRun u t) : CycleRun s t where
  tbTrace := by
    rw [hrest.tbTrace, h.tbTrace, h.snap, h.quantum, h.idx_val hinner, drop_idx s, List.flatMap_cons, List.append_assoc]
  snap := hrest.snap.trans h.snap
  lock := hrest.lock.trans h.lock
  idx := hrest.idx
  sph := hrest.sph

/-- With as many whole turns to come as there are Steps from `IDX` on, the run ends the cycle. -/
theorem run_steps (hr : i.tbReady = true) (hdone : i.tbDone = true) (n : Nat) (hp : s.sph = .step)
    (hidx : s.idx.val + n = 8) (hs : s.sched = List.replicate (n + 1) ⟨.strm, .whole, i⟩) :
    ∃ t, Sys2Proof.core.run (n + 1) s = .next t ∧ CycleRun s t := by
  induction n generalizing s with
  | zero =>
    have hrun : StepRun s (wholeStreamerTurn (s.beginTurn i [])) :=
      { stepRun_of_willing (s := s.beginTurn i []) hp hr hdone with }
    exact ⟨_, run_wholeStreamerTurn 0 hs, hrun.cycleRun (Fin.ext hidx)⟩
  | succ n ih =>
    have hinner : s.idx ≠ 8 := fun h => by simp [h] at hidx
    have hrun : StepRun s (wholeStreamerTurn (s.beginTurn i (List.replicate (n + 1) ⟨.strm, .whole, i⟩))) :=
      { stepRun_of_willing (s := s.beginTurn i _) hp hr hdone with }
    obtain ⟨t, ht, hrest⟩ := ih (by rw [hrun.sph, if_neg hinner]) (by rw [hrun.idx_val hinner]; omega)
      (wholeStreamerTurn_sched _)
    exact ⟨t, (run_wholeStreamerTurn _ hs).trans ht, hrun.trans_cycleRun hinner hrest⟩

end Sys2Proof.Machine

namespace Sys2Proof

open Machine

/-- Settles O59: the first turn is the snapshot section, and the other nine run the Steps it has copied. -/
theorem oneCycleCompletes : Obligations.OneCycleCompletes := by
  unfold Obligations.OneCycleCompletes
  intro s i hp hl hidx hr hdone
  have hsnapshot : SnapshotRun s (wholeStreamerTurn ((s.withTurns (List.replicate 10 ⟨.strm, .whole, i⟩)).beginTurn i
      (List.replicate 9 ⟨.strm, .whole, i⟩))) :=
    { snapshotRun_of_lock_free (s := (s.withTurns _).beginTurn i _) hp hl with }
  obtain ⟨t, ht, hsteps⟩ := run_steps hr hdone 8 hsnapshot.sph (by rw [hsnapshot.idx, hidx]; rfl) (wholeStreamerTurn_sched _)
  refine ⟨t, (run_wholeStreamerTurn 9 rfl).trans ht, ?trace, hsteps.snap.trans hsnapshot.snap, hsteps.sph, hsteps.idx,
    hsteps.lock.trans hsnapshot.lock⟩
  case trace =>
    rw [hsteps.tbTrace, hsnapshot.tbTrace, hsnapshot.snap, hsnapshot.quantum, hsnapshot.idx, hidx]
    rfl

end Sys2Proof
end

section
/-! Sums over one cycle (R121). What a list of Steps puts on the boundary trace, by induction on the list; the sums over the nine Steps of
`REFLECT` are those of `durationSum_reflect` and `onDuration_reflect`. -/

namespace Sys2Proof.Machine

variable {q : Quantum} {steps : List Step} {st : Step}

/-! ## The events of one Step -/

theorem sum_count_stepEvents (q : Quantum) (st : Step) :
    ((stepEvents q st).map TbEvent.count).sum = st.dur.toNat * q.val := by
  by_cases hd : st.dur = 0
  · simp [stepEvents_of_zero q hd, hd]
  · simp [stepEvents_of_ne_zero q hd, TbEvent.count, delayCount_toNat]

theorem countP_isSend_stepEvents (q : Quantum) (st : Step) :
    (stepEvents q st).countP TbEvent.isSend = if st.dur != 0 then 1 else 0 := by
  by_cases hd : st.dur = 0
  · simp [stepEvents_of_zero q hd, hd]
  · rw [stepEvents_of_ne_zero q hd, if_pos (bne_iff_ne.mpr hd)]
    rfl

/-- A Step's delay counts for the channels of its mask; its word decides for what follows, if it sends one. -/
theorem onDelay_stepEvents_append (q : Quantum) (c : Channel) (on : Bool) (st : Step) (rest : List TbEvent) :
    onDelay c on (stepEvents q st ++ rest) =
      (if st.mask.getLsbD c.val then st.dur.toNat * q.val else 0) +
        onDelay c (if st.dur = 0 then on else st.mask.getLsbD c.val) rest := by
  by_cases hd : st.dur = 0
  · simp [stepEvents_of_zero q hd, hd]
  · rw [stepEvents_of_ne_zero q hd, if_neg hd, ← delayCount_toNat]
    rfl

/-! ## The events of a list of Steps -/

theorem sum_count_flatMap (q : Quantum) (steps : List Step) :
    ((steps.flatMap (stepEvents q)).map TbEvent.count).sum = (steps.map fun st => st.dur.toNat).sum * q.val := by
  induction steps with
  | nil => simp
  | cons st steps ih =>
    rw [List.flatMap_cons, List.map_append, List.sum_append, sum_count_stepEvents, ih, List.map_cons, List.sum_cons,
      Nat.add_mul]

theorem countP_isSend_flatMap (q : Quantum) (steps : List Step) :
    (steps.flatMap (stepEvents q)).countP TbEvent.isSend = steps.countP fun st => st.dur != 0 := by
  induction steps with
  | nil => rfl
  | cons st steps ih =>
    rw [List.flatMap_cons, List.countP_append, countP_isSend_stepEvents, ih, List.countP_cons, Nat.add_comm]

/-- The delays under a channel's bit, whatever word came before: none is asked for until the first word is sent. -/
theorem onDelay_flatMap (q : Quantum) (c : Channel) (on : Bool) (steps : List Step) :
    onDelay c on (steps.flatMap (stepEvents q)) =
      ((steps.filter fun st => st.mask.getLsbD c.val).map fun st => st.dur.toNat).sum * q.val := by
  induction steps generalizing on with
  | nil => simp [onDelay]
  | cons st steps ih =>
    rw [List.flatMap_cons, onDelay_stepEvents_append, ih, List.filter_cons]
    split
    case isTrue => rw [List.map_cons, List.sum_cons, Nat.add_mul]
    case isFalse => exact Nat.zero_add _

/-- The first event is the word of the first effective Step. -/
theorem head?_flatMap_stepEvents (q : Quantum) (steps : List Step) :
    (steps.flatMap (stepEvents q)).head? = (steps.find? fun st => st.dur != 0).map fun st => .send st.mask := by
  induction steps with
  | nil => rfl
  | cons st steps ih =>
    by_cases hd : st.dur = 0
    · rw [List.flatMap_cons, stepEvents_of_zero q hd, List.nil_append, ih, List.find?_cons_of_neg (by simp [hd])]
    · rw [List.flatMap_cons, stepEvents_of_ne_zero q hd, List.find?_cons_of_pos (by exact bne_iff_ne.mpr hd)]
      rfl

/-! ## The cycle of `REFLECT(l)` -/

section Cycle

variable (l : Levels)

/-- The Steps before the first effective one take no time, so it shows every channel whose level is not 0. -/
theorem first_effective_mask {c : Channel} (hfind : (reflect l).toList.find? (fun st => st.dur != 0) = some st)
    (hc : l[c] ≠ 0) : st.mask.getLsbD c.val = true := by
  have h := sortChannels_ascendingOrder l
  rw [reflect_toList, reflectSteps_eq_stepsAlong, List.find?_eq_some_iff_getElem] at hfind
  obtain ⟨heff, k, hk, rfl, hbefore⟩ := hfind
  have hst := List.getElem?_eq_getElem hk
  rw [h.stepsAlong_length] at hk
  have hstart : (boundaryTimes l 0 (sortChannels l)).getD k 0 = 0 := by
    rw [← h.sum_durations hk.le, List.sum_eq_zero_iff]
    simp only [List.mem_map, List.mem_take_iff_getElem]
    rintro _ ⟨_, ⟨j, hj, rfl⟩, rfl⟩
    have hzero := hbefore j (by omega)
    simpa [BitVec.toNat_eq] using hzero
  have hinterval := (h.dur_ne_zero_iff hst).mp (by simpa using heff)
  rw [h.mask_eq hst, channelMask_getLsbD_channel, h.mem_drop_iff_of_effective hinterval (by omega), hstart]
  exact Nat.pos_of_ne_zero fun hzero => hc (BitVec.eq_of_toNat_eq hzero)

theorem cycleTrace_head : ∃ w, (cycleTrace q (reflect l)).head? = some (.send w) ∧
    ∀ c : Channel, l[c] ≠ 0 → w.getLsbD c.val = true := by
  obtain ⟨st, hmem, hst⟩ := List.countP_pos_iff.mp (effectiveCount_reflect_pos l)
  obtain ⟨first, hfind⟩ := Option.isSome_iff_exists.mp ((List.find?_isSome (p := fun st => st.dur != 0)).mpr ⟨st, hmem, hst⟩)
  exact ⟨first.mask, by rw [cycleTrace, head?_flatMap_stepEvents, hfind]; rfl, fun _ => first_effective_mask l hfind⟩

/-- The trailing step has no channel ON (R94). -/
theorem reflect_last_mask : (reflect l)[8].mask = 0 := by
  have h := sortChannels_ascendingOrder l
  rw [h.mask_eq (stepsAlong_getElem?_reflect l (by decide)), List.drop_of_length_le h.length_eq.le]
  rfl

theorem reflect_last_dur (hfull : (255 : Level) ∉ l.toList) : (reflect l)[8].dur ≠ 0 := by
  obtain ⟨-, hlast, -⟩ := effectiveStepCount l
  refine hlast.mpr fun c => ?_
  have hne : l[c] ≠ 255 := fun heq => hfull (heq ▸ Vector.mem_toList_iff.mpr (Vector.getElem_mem c.isLt))
  bv_omega

theorem cycleTrace_last (hfull : (255 : Level) ∉ l.toList) :
    ∃ before n, cycleTrace q (reflect l) = before ++ [.send 0, .delay n, .delayDone] := by
  have hsplit : (reflect l).toList = (reflect l).toList.take 8 ++ [(reflect l)[8]] := by
    have hlen : (reflect l).toList.length = 9 := (reflect l).length_toList
    rw [← Vector.getElem_toList (by omega), List.take_append_getElem (by omega), List.take_of_length_le hlen.le]
  refine ⟨((reflect l).toList.take 8).flatMap (stepEvents q), delayCount q (reflect l)[8].dur, ?_⟩
  rw [cycleTrace, congrArg (List.flatMap (stepEvents q)) hsplit, List.flatMap_append, List.flatMap_singleton,
    stepEvents_of_ne_zero q (reflect_last_dur l hfull), reflect_last_mask]

end Cycle

end Sys2Proof.Machine

namespace Sys2Proof

open Machine

/-- Settles O60: the sums over a cycle are those over its Steps; the first effective Step starts at 0 and the trailing step has no channel. -/
theorem cycleSums : Obligations.CycleSums := by
  unfold Obligations.CycleSums
  refine fun q l => ⟨?total, fun c => ?channel, countP_isSend_flatMap q _, ⟨effectiveCount_reflect_pos l, effectiveCount_le _⟩,
    cycleTrace_head l, cycleTrace_last l⟩
  case total =>
    rw [cycleTrace, sum_count_flatMap, ← durationSum_reflect l]
    rfl
  case channel =>
    obtain ⟨j, -, hc⟩ := (sortChannels_ascendingOrder l).exists_place c
    rw [cycleTrace, onDelay_flatMap, ← onDuration_reflect hc]
    rfl

end Sys2Proof
end

section
/-! The host engine's micro-steps phase by phase (R141 to R147): what a turn makes of the state in each phase and for each input that decides
it; and what a response stands for when it is given (R50). -/

namespace Sys2Proof.Machine

variable {s : State} {w : HcWord}

theorem step_of_host_micro (ha : s.turn.agent = .host) (hg : s.turn.grain = .micro) :
    step s = .next (microTurn .host s.atTurn) := by
  rw [step_of_micro hg, ha]

/-! ## H.ACCEPT -/

theorem microTurn_host_idle_of_no_offer (hp : s.hph = .idle) (ho : s.inputs.offer = none) : microTurn .host s = s := by
  have hnone : hostContinue s = none := by simp [hostContinue, hp]
  rw [microTurn_host_of_no_offer ho, hnone, Option.getD_none]

theorem latchWord_of_update (hop : hcOp w = 0b01) (s : State) :
    latchWord w s = s.latchUpdate (unpackLevels (hcArg w)) := if_pos hop

theorem latchWord_of_read (hop : hcOp w = 0b10) (harg : hcArg w = 0) (s : State) : latchWord w s = s.latchRead := by
  simp [latchWord, hop, harg]

theorem latchWord_of_illegal (hupd : hcOp w ≠ 0b01) (hread : ¬(hcOp w = 0b10 ∧ hcArg w = 0)) (s : State) :
    latchWord w s = s.raiseIllegalCommand := by
  rw [latchWord, if_neg hupd, if_neg hread]

/-- The levels of an update stand in the low bits of the whole command word (R61, R64). -/
theorem unpackLevels_hcArg (w : HcWord) :
    unpackLevels (hcArg w) = Vector.ofFn fun c => w.extractLsb' (8 * c.val) 8 := by
  refine congrArg Vector.ofFn (funext fun c => BitVec.eq_of_getLsbD_eq fun i hi => ?_)
  have hin : 8 * c.val + i < 64 := by omega
  simp [hcArg, BitVec.getLsbD_extractLsb', hin]

/-! ## H.ACQ and H.RSP -/

theorem hAcq_of_lock_free (hl : s.lock = .free) :
    hAcq s = some ((s.setLock .host).setHph (if s.hkind = .upd then .write else .copy)) :=
  hAcq_eq_some.mpr ⟨hl, rfl⟩

theorem hAcq_of_lock_taken (hl : s.lock ≠ .free) : hAcq s = none := by
  cases h : hAcq s with
  | none => rfl
  | some s' =>
    obtain ⟨hfree, -⟩ := hAcq_eq_some.mp h
    exact absurd hfree hl

theorem hRsp_of_ready (hr : s.inputs.hostReady = true) :
    hRsp s = some ((s.emitHost (.rsp (responseWord s))).setHph .idle) := by
  simp [hRsp, hr]

theorem hRsp_of_not_ready (hr : s.inputs.hostReady = false) : hRsp s = none := by
  simp [hRsp, hr]

theorem microTurn_host_of_acq (hp : s.hph = .acq) : microTurn .host s = (hAcq s).getD s := by
  simp [microTurn, agentMicro, hostMicro, hostContinue, hp]

theorem responseWord_of_upd (hk : s.hkind = .upd) : responseWord s = 0b01#2 ++ 0#360 := by
  rw [responseWord, hk]
  rfl

theorem responseWord_of_rd (hk : s.hkind = .rd) : responseWord s = 0b10#2 ++ packSequence s.hbuf := by
  rw [responseWord, hk]
  rfl

theorem responseWord_of_bad (hk : s.hkind = .bad) : responseWord s = 0b11#2 ++ 0#360 := by
  rw [responseWord, hk]
  rfl

/-- In `H_RSP` a step of the host engine, of either grain, is H.RSP (R147). -/
theorem step_of_host_rsp (ha : s.turn.agent = .host) (hp : s.hph = .rsp) :
    step s = .next ((hRsp s.atTurn).getD s.atTurn) := by
  have hturn : s.turn = ⟨.host, s.turn.grain, s.turn.inputs⟩ := by rw [← ha]
  rw [step, hturn, runTurn_host_of_rsp (s := s.atTurn) _ _ hp]

/-- A step in `H_RSP` that leaves an event has given the response. -/
theorem eq_of_response_given {t : State} (ha : s.turn.agent = .host) (hp : s.hph = .rsp) (hstep : step s = .next t)
    (hgiven : t.hostTrace ≠ s.hostTrace) : t = (s.atTurn.emitHost (.rsp (responseWord s))).setHph .idle := by
  rw [step_of_host_rsp ha hp] at hstep
  cases hr : s.turn.inputs.hostReady with
  | false =>
    rw [hRsp_of_not_ready (s := s.atTurn) hr, Option.getD_none] at hstep
    cases hstep
    exact absurd rfl hgiven
  | true =>
    rw [hRsp_of_ready (s := s.atTurn) hr, Option.getD_some] at hstep
    exact (Host.Outcome.next.inj hstep).symm

end Sys2Proof.Machine

namespace Sys2Proof

open Machine

/-- Settles O22: the three clauses are the three branches of what H.ACCEPT latches. -/
theorem hostAcceptStep : Obligations.HostAcceptStep := by
  unfold Obligations.HostAcceptStep
  intro s ha hg hp
  rw [step_of_host_micro ha hg]
  refine ⟨fun ho => congrArg _ (microTurn_host_idle_of_no_offer (s := s.atTurn) hp ho), fun w ho => ?offered⟩
  case offered =>
    rw [microTurn_host_idle (s := s.atTurn) hp ho, acceptedWord, ← unpackLevels_hcArg]
    exact ⟨fun hop => congrArg _ (latchWord_of_update hop _), fun hop harg => congrArg _ (latchWord_of_read hop harg _),
      fun hupd hread => congrArg _ (latchWord_of_illegal hupd hread _)⟩

/-- Settles O23: H.ACQ is enabled exactly when the lock is free. -/
theorem hostAcquireStep : Obligations.HostAcquireStep := by
  unfold Obligations.HostAcquireStep
  intro s ha hg hp
  rw [step_of_host_micro ha hg, microTurn_host_of_acq (s := s.atTurn) hp]
  refine ⟨fun hl => ?free, fun hl => ?taken⟩
  case free =>
    rw [hAcq_of_lock_free (s := s.atTurn) hl]
    rfl
  case taken =>
    rw [hAcq_of_lock_taken (s := s.atTurn) hl]
    rfl

/-- Settles O24: H.WRITE and H.REFLECT have no guard but their phase. -/
theorem hostUpdateSteps : Obligations.HostUpdateSteps := by
  unfold Obligations.HostUpdateSteps
  intro s ha hg
  rw [step_of_host_micro ha hg]
  exact ⟨fun hp => congrArg _ (microTurn_host_of_write (s := s.atTurn) hp),
    fun hp => congrArg _ (microTurn_host_of_reflect (s := s.atTurn) hp)⟩

/-- Settles O25: H.COPY has no guard but its phase. -/
theorem hostCopyStep : Obligations.HostCopyStep := by
  unfold Obligations.HostCopyStep
  intro s ha hg hp
  rw [step_of_host_micro ha hg]
  exact congrArg _ (microTurn_host_of_copy (s := s.atTurn) hp)

/-- Settles O26: H.REL has no guard but its phase. -/
theorem hostReleaseStep : Obligations.HostReleaseStep := by
  unfold Obligations.HostReleaseStep
  intro s ha hg hp
  rw [step_of_host_micro ha hg]
  exact congrArg _ (microTurn_host_of_rel (s := s.atTurn) hp)

/-- Settles O27: in `H_RSP` a turn of either grain is H.RSP, which is enabled exactly when the host is ready. -/
theorem hostResponseStep : Obligations.HostResponseStep := by
  unfold Obligations.HostResponseStep
  intro s ha hp
  rw [step_of_host_rsp ha hp]
  refine ⟨fun hr => ?answered, fun hr => ?waits⟩
  case answered =>
    rw [hRsp_of_ready (s := s.atTurn) hr]
    rfl
  case waits =>
    rw [hRsp_of_not_ready (s := s.atTurn) hr]
    rfl

/-- Settles O47: the response is the one of H.RSP, which keeps the record, and `Inv` says what the record is in `H_RSP`. -/
theorem responseMeaning : Obligations.ResponseMeaning := by
  unfold Obligations.ResponseMeaning
  intro s t h ha hp hstep hgiven
  cases eq_of_response_given ha hp hstep hgiven
  obtain ⟨hwritten, hcopied⟩ := h.response
  refine ⟨fun hk => ?update, fun hk => ?read, fun hk => ?illegal⟩
  case update =>
    have hlevels : s.levels = s.hlv := hwritten hk (.inr (.inr hp))
    have hcurrent : s.steps = reflect s.levels := h.shared (by simp [hp])
    rw [responseWord_of_upd hk]
    exact ⟨rfl, hlevels, hcurrent.trans (congrArg reflect hlevels)⟩
  case read =>
    have hbuf : s.hbuf = s.steps := hcopied hk (.inr hp)
    rw [responseWord_of_rd hk, hbuf]
    rfl
  case illegal =>
    rw [responseWord_of_bad hk]
    rfl

end Sys2Proof
end

section
/-! The host commands and responses as wholes (R147 to R150): how far the micro-steps of a command in hand run in one turn, and where a
command stops for the lock or for the host. -/

namespace Sys2Proof.Machine

variable {s : State} {w : HcWord} {latch : State → State}

/-! ## The rest of a command, from each phase -/

theorem hostContinue_of_acq (hp : s.hph = .acq) : hostContinue s = hAcq s := by simp [hostContinue, hp]

theorem hostContinue_of_rsp (hp : s.hph = .rsp) : hostContinue s = hRsp s := by simp [hostContinue, hp]

/-- The section of an update (R142 to R146) ends with the lock given back, as free as it was. -/
theorem finishCommand_of_update (hp : s.hph = .acq) (hk : s.hkind = .upd) (hl : s.lock = .free) (n : Nat) :
    finishCommand (n + 4) s = finishCommand n { s with levels := s.hlv, steps := reflect s.hlv, hph := .rsp } := by
  have hacquire : hostContinue s = some ((s.setLock .host).setHph .write) := by
    simp [hostContinue_of_acq hp, hAcq_of_lock_free hl, hk]
  rw [finishCommand_succ, hacquire, finishCommand_succ, finishCommand_succ, finishCommand_succ]
  simp only [hostContinue, hWrite, hReflect, hRel, State.release, Option.getD_some, State.setHph_hph, ← hl]
  rfl

/-- The section of a read (R142, R145, R146). -/
theorem finishCommand_of_read (hp : s.hph = .acq) (hk : s.hkind = .rd) (hl : s.lock = .free) (n : Nat) :
    finishCommand (n + 3) s = finishCommand n { s with hbuf := s.steps, hph := .rsp } := by
  have hacquire : hostContinue s = some ((s.setLock .host).setHph .copy) := by
    simp [hostContinue_of_acq hp, hAcq_of_lock_free hl, hk]
  rw [finishCommand_succ, hacquire, finishCommand_succ, finishCommand_succ]
  simp only [hostContinue, hCopy, hRel, State.release, Option.getD_some, State.setHph_hph, ← hl]
  rfl

/-- A legal command that finds the lock taken stays in `H_ACQ` (R142). -/
theorem finishCommand_of_lock_taken (hp : s.hph = .acq) (hl : s.lock ≠ .free) (n : Nat) : finishCommand n s = s :=
  finishCommand_of_waiting ((hostContinue_of_acq hp).trans (hAcq_of_lock_taken hl)) n

/-- H.RSP ends the command, however many micro-steps are left to it (R147). -/
theorem finishCommand_of_ready (hp : s.hph = .rsp) (hr : s.inputs.hostReady = true) (n : Nat) :
    finishCommand (n + 1) s = { s with hph := .idle, hostTrace := s.hostTrace ++ [.rsp (responseWord s)] } := by
  rw [finishCommand_succ, hostContinue_of_rsp hp, hRsp_of_ready hr]
  exact finishCommand_of_waiting rfl n

theorem finishCommand_of_not_ready (hp : s.hph = .rsp) (hr : s.inputs.hostReady = false) (n : Nat) :
    finishCommand n s = s :=
  finishCommand_of_waiting ((hostContinue_of_rsp hp).trans (hRsp_of_not_ready hr)) n

/-! ## A whole command, by what H.ACCEPT latches -/

theorem runCommand_of_busy (hp : s.hph ≠ .idle) : runCommand w latch s = s := by
  cases h : acceptCommand w latch s with
  | none => simp [runCommand, h]
  | some s' =>
    obtain ⟨hidle, -⟩ := acceptCommand_eq_some.mp h
    exact absurd hidle hp

/-- In `H_IDLE` the whole command is what its word latches, and the rest of it. -/
theorem runCommand_of_latch (hw : ∀ u, latchWord w u = latch u) (hp : s.hph = .idle) :
    runCommand w latch s = finishCommand 5 (latch (s.consumeOffer.emitHost (.cmd w))) := by
  rw [runCommand_of_idle hw hp, acceptedWord, hw]

/-- The state in which H.ACCEPT has taken the word `w`, with the command of kind `k` latched and the engine in phase `p` (R141). -/
def State.latched (w : HcWord) (k : HKind) (p : HPhase) (s : State) : State :=
  { s with
    hkind := k, hph := p, inputs := { s.inputs with offer := none }, hostTrace := s.hostTrace ++ [.cmd w] }

theorem State.latched_hostTrace (k : HKind) (p : HPhase) : (s.latched w k p).hostTrace = s.hostTrace ++ [.cmd w] := rfl

/-! ## The sections of an update and of a read -/

/-- An update whose levels and sequence are written and whose response is due. -/
def State.updateServed (w : HcWord) (l : Levels) (s : State) : State :=
  { s.latched w .upd .rsp with levels := l, steps := reflect l, hlv := l }

/-- A read whose copy is made and whose response is due. -/
def State.readServed (w : HcWord) (s : State) : State := { s.latched w .rd .rsp with hbuf := s.steps }

theorem State.updateServed_hostTrace (l : Levels) : (s.updateServed w l).hostTrace = s.hostTrace ++ [.cmd w] := rfl

theorem State.readServed_hostTrace : (s.readServed w).hostTrace = s.hostTrace ++ [.cmd w] := rfl

theorem runCommand_update_of_lock_free {l : Levels} (hw : ∀ u, latchWord w u = u.latchUpdate l) (hp : s.hph = .idle)
    (hl : s.lock = .free) : runCommand w (State.latchUpdate l) s = finishCommand 1 (s.updateServed w l) :=
  (runCommand_of_latch hw hp).trans (finishCommand_of_update (s := { s.latched w .upd .acq with hlv := l }) rfl rfl hl 1)

theorem runCommand_update_of_lock_taken {l : Levels} (hw : ∀ u, latchWord w u = u.latchUpdate l) (hp : s.hph = .idle)
    (hl : s.lock ≠ .free) : runCommand w (State.latchUpdate l) s = { s.latched w .upd .acq with hlv := l } :=
  (runCommand_of_latch hw hp).trans (finishCommand_of_lock_taken (s := { s.latched w .upd .acq with hlv := l }) rfl hl 5)

theorem runCommand_read_of_lock_free (hw : ∀ u, latchWord w u = u.latchRead) (hp : s.hph = .idle) (hl : s.lock = .free) :
    runCommand w State.latchRead s = finishCommand 2 (s.readServed w) :=
  (runCommand_of_latch hw hp).trans (finishCommand_of_read (s := s.latched w .rd .acq) rfl rfl hl 2)

theorem runCommand_read_of_lock_taken (hw : ∀ u, latchWord w u = u.latchRead) (hp : s.hph = .idle) (hl : s.lock ≠ .free) :
    runCommand w State.latchRead s = s.latched w .rd .acq :=
  (runCommand_of_latch hw hp).trans (finishCommand_of_lock_taken (s := s.latched w .rd .acq) rfl hl 5)

/-! ## The illegal words -/

theorem runCommand_illegal_waits (hw : ∀ u, latchWord w u = u.raiseIllegalCommand) (hp : s.hph = .idle)
    (hr : s.inputs.hostReady = false) : runCommand w State.raiseIllegalCommand s = s.latched w .bad .rsp :=
  (runCommand_of_latch hw hp).trans (finishCommand_of_not_ready (s := s.latched w .bad .rsp) rfl hr 5)

theorem runCommand_illegal_answered (hw : ∀ u, latchWord w u = u.raiseIllegalCommand) (hp : s.hph = .idle)
    (hr : s.inputs.hostReady = true) :
    runCommand w State.raiseIllegalCommand s = { s with
      hkind := .bad, inputs := { s.inputs with offer := none },
      hostTrace := s.hostTrace ++ [.cmd w, .rsp (0b11#2 ++ 0#360)] } := by
  have hrun := (runCommand_of_latch hw hp).trans (finishCommand_of_ready (s := s.latched w .bad .rsp) rfl hr 4)
  rw [hrun, responseWord_of_bad rfl, State.latched_hostTrace, List.append_assoc, ← hp]
  rfl

/-! ## The responses -/

theorem giveResponse_of_ready {offered : Bool} (hp : s.hph = .rsp) (hr : s.inputs.hostReady = true)
    (ho : offered = true) :
    giveResponse offered s = { s with hph := .idle, hostTrace := s.hostTrace ++ [.rsp (responseWord s)] } := by
  simp only [giveResponse, hp, ho, if_true, hRsp_of_ready hr, Option.getD_some]
  rfl

end Sys2Proof.Machine

namespace Sys2Proof

open Machine

/-- Settles O12: the update's section needs only the lock, and its response only the host. -/
theorem updateLevelsCompletes : Obligations.UpdateLevelsCompletes := by
  unfold Obligations.UpdateLevelsCompletes
  intro l s hp hl hr
  rw [exec, execUpdateLevels, runCommand_update_of_lock_free (latchWord_updateLevels l) hp hl,
    finishCommand_of_ready (s := s.updateServed _ l) rfl hr, responseWord_of_upd rfl, State.updateServed_hostTrace,
    List.append_assoc, ← hp]
  rfl

/-- Settles O13: the read's section needs only the lock, and its response only the host. -/
theorem readSnapshotCompletes : Obligations.ReadSnapshotCompletes := by
  unfold Obligations.ReadSnapshotCompletes
  intro s hp hl hr
  rw [exec, execReadSnapshot, runCommand_read_of_lock_free latchWord_readSnapshot hp hl,
    finishCommand_of_ready (s := s.readServed _) rfl hr, responseWord_of_rd rfl, State.readServed_hostTrace,
    List.append_assoc, ← hp]
  rfl

/-- Settles O14: an illegal word asks for no lock, so only the host can hold its response up. -/
theorem illegalWordsAnswerErr : Obligations.IllegalWordsAnswerErr := by
  unfold Obligations.IllegalWordsAnswerErr
  intro arg s hp hr
  exact ⟨congrArg _ (runCommand_illegal_answered (latchWord_illegalOp00 arg) hp hr),
    congrArg _ (runCommand_illegal_answered (latchWord_illegalOp11 arg) hp hr),
    fun ha => congrArg _ (runCommand_illegal_answered (latchWord_illegalRdArg arg ha) hp hr)⟩

/-- Settles O15: a command waits for the engine, for the lock, or for the host. -/
theorem commandsWait : Obligations.CommandsWait := by
  unfold Obligations.CommandsWait
  intro l arg s
  refine ⟨fun hp => ?busy, fun hp hl => ?lock, fun hp hl hr => ?host, fun hp hr => ?illegal⟩
  case busy =>
    have hwaits (w : HcWord) (latch : State → State) :
        (.next (runCommand w latch s) : Host.Outcome State Fault Refusal) = .next s := by rw [runCommand_of_busy hp]
    exact ⟨hwaits _ _, hwaits _ _, hwaits _ _, hwaits _ _, fun _ => hwaits _ _⟩
  case lock =>
    exact ⟨congrArg _ (runCommand_update_of_lock_taken (latchWord_updateLevels l) hp hl),
      congrArg _ (runCommand_read_of_lock_taken latchWord_readSnapshot hp hl)⟩
  case host =>
    have hupdate := runCommand_update_of_lock_free (latchWord_updateLevels l) hp hl
    have hread := runCommand_read_of_lock_free latchWord_readSnapshot hp hl
    rw [finishCommand_of_not_ready (s := s.updateServed _ l) rfl hr] at hupdate
    rw [finishCommand_of_not_ready (s := s.readServed _) rfl hr] at hread
    exact ⟨congrArg _ hupdate, congrArg _ hread⟩
  case illegal =>
    exact ⟨congrArg _ (runCommand_illegal_waits (latchWord_illegalOp00 arg) hp hr),
      congrArg _ (runCommand_illegal_waits (latchWord_illegalOp11 arg) hp hr),
      fun ha => congrArg _ (runCommand_illegal_waits (latchWord_illegalRdArg arg ha) hp hr)⟩

/-- Settles O16: the latches offer the response that is given. -/
theorem responsesComplete : Obligations.ResponsesComplete := by
  unfold Obligations.ResponsesComplete
  intro s hp hr
  refine ⟨fun hk => ?ack, fun hk => ?data, fun hk => ?err⟩
  case ack => rw [exec, execAck, giveResponse_of_ready hp hr (by simp [hk]), responseWord_of_upd hk]
  case data => rw [exec, execData, giveResponse_of_ready hp hr (by simp [hk]), responseWord_of_rd hk]
  case err => rw [exec, execErr, giveResponse_of_ready hp hr (by simp [hk]), responseWord_of_bad hk]

end Sys2Proof
end

section
/-! The transmission boundary (R171 to R176; log entries 11, 17 and 20): its requests, its completion, and what its lines show. The lines are
followed through a turn by `LinesFollow`, which composes, so that it holds of a turn of either grain once it holds of each micro-step. -/

namespace Sys2Proof.Machine

variable {s t u : State}

/-! ## The lines -/

theorem State.line_of_lastWord_eq (h : t.lastWord = s.lastWord) : t.line = s.line := by simp only [State.line, h]

theorem State.line_of_lastWord {w : TbsWord} (h : s.lastWord = some w) : s.line = w.extractLsb' 0 8 := by
  simp only [State.line, h]

@[simp] theorem State.advance_lastWord (s : State) : s.advance.lastWord = s.lastWord := by rw [State.advance_eq]

@[simp] theorem State.advance_tbTrace (s : State) : s.advance.tbTrace = s.tbTrace := by rw [State.advance_eq]

/-- From `s` to `t` the boundary trace grows, and where the lines differ they show a word sent in between. -/
def LinesFollow (s t : State) : Prop :=
  ∃ es, t.tbTrace = s.tbTrace ++ es ∧ (t.line = s.line ∨ ∃ w, .send w ∈ es ∧ t.line = w.extractLsb' 0 8)

theorem LinesFollow.of_lastWord_eq (es : List TbEvent) (htrace : t.tbTrace = s.tbTrace ++ es)
    (hword : t.lastWord = s.lastWord) : LinesFollow s t :=
  ⟨es, htrace, .inl (State.line_of_lastWord_eq hword)⟩

theorem LinesFollow.of_sent {w : TbsWord} (htrace : t.tbTrace = s.tbTrace ++ [.send w]) (hword : t.lastWord = some w) :
    LinesFollow s t :=
  ⟨[.send w], htrace, .inr ⟨w, List.mem_singleton_self _, State.line_of_lastWord hword⟩⟩

/-- Nothing is put on the trace and the lines stay. -/
theorem LinesFollow.of_quiet (htrace : t.tbTrace = s.tbTrace) (hword : t.lastWord = s.lastWord) : LinesFollow s t :=
  .of_lastWord_eq [] (by rw [htrace, List.append_nil]) hword

theorem LinesFollow.trans (hst : LinesFollow s t) (htu : LinesFollow t u) : LinesFollow s u := by
  obtain ⟨es, htrace, hline⟩ := hst
  obtain ⟨es', htrace', hline'⟩ := htu
  refine ⟨es ++ es', by rw [htrace', htrace, List.append_assoc], ?_⟩
  rcases hline' with hkept | ⟨w, hw, hlast⟩
  · rw [hkept]
    exact hline.imp_right fun ⟨w, hw, hlast⟩ => ⟨w, List.mem_append_left _ hw, hlast⟩
  · exact .inr ⟨w, List.mem_append_right _ hw, hlast⟩

/-! ## What each agent does to the lines -/

theorem linesFollow_of_outsideHost_eq (h : t.outsideHost = s.outsideHost) : LinesFollow s t := by
  simp only [State.outsideHost, Prod.mk.injEq] at h
  obtain ⟨-, hboundary, -, htrace, -⟩ := h
  exact .of_quiet htrace (congrArg Boundary.lastWord hboundary)

/-- Of the streamer's micro-steps S.SEND alone changes the lines; S.DLY and S.RESUME put their events on the trace (R115 to R117). -/
theorem strmMicro_linesFollow (h : strmMicro s = some t) : LinesFollow s t := by
  rcases strmMicro_cases h with
    ⟨-, -, rfl⟩ | ⟨-, rfl⟩ | ⟨-, rfl⟩ | ⟨-, -, rfl⟩ | ⟨-, -, -, rfl⟩ | ⟨-, rfl⟩ | ⟨-, -, rfl⟩
  · exact .of_quiet rfl rfl
  · exact .of_quiet rfl rfl
  · exact .of_quiet rfl rfl
  · exact .of_quiet (State.advance_tbTrace s) (State.advance_lastWord s)
  · exact .of_sent rfl rfl
  · exact .of_lastWord_eq [.delay (delayOperand s)] rfl rfl
  · exact .of_lastWord_eq [.delayDone] (State.advance_tbTrace _) (State.advance_lastWord _)

theorem MicroStep.linesFollow {a : Agent} (h : MicroStep a s t) : LinesFollow s t := by
  cases h with
  | accept w hp => exact linesFollow_of_outsideHost_eq (MicroStep.accept w hp).outsideHost_eq
  | host h => exact linesFollow_of_outsideHost_eq (hostContinue_outsideHost h)
  | strm h => exact strmMicro_linesFollow h
  | complete _ h =>
    obtain ⟨-, rfl⟩ := giveDelayDone_eq_some.mp h
    exact .of_quiet rfl rfl
  | takeSend w _ => exact .of_sent rfl rfl
  | takeDelay n _ => exact .of_lastWord_eq [.delay n] rfl rfl

theorem step_linesFollow (h : step s = .next t) : LinesFollow s t :=
  step_keeps (P := LinesFollow s) (fun _ => .of_quiet rfl rfl) (fun _ _ hm hu => hu.trans hm.linesFollow) h
    (.of_quiet rfl rfl)

/-! ## The boundary's side of a request, and its own turn -/

theorem execSend_of_accepted (w : TbsWord) (hr : s.inputs.tbReady = true) : execSend w s = .next (takeSend w s) := by
  simp only [execSend, hr, if_true]

theorem execSend_of_refused (w : TbsWord) (hr : s.inputs.tbReady = false) : execSend w s = .next s := by
  simp [execSend, hr]

theorem takeSend_line (w : TbsWord) (s : State) : (takeSend w s).line = w.extractLsb' 0 8 :=
  State.line_of_lastWord rfl

theorem takeDelay_line (n : TbdWord) (s : State) : (takeDelay n s).line = s.line :=
  State.line_of_lastWord_eq rfl

theorem giveDelayDone_of_running (h : s.tbPend ≠ none) :
    giveDelayDone s = some ((s.setTbPend none).setDelayDone true) :=
  giveDelayDone_eq_some.mpr ⟨Option.ne_none_iff_exists'.mp h, rfl⟩

theorem giveDelayDone_of_idle (h : s.tbPend = none) : giveDelayDone s = none := by
  simp only [giveDelayDone, h]

theorem step_of_boundary (ha : s.turn.agent = .boundary) : step s = .next (microTurn .boundary s.atTurn) := by
  have hturn : s.turn = ⟨.boundary, s.turn.grain, s.turn.inputs⟩ := by rw [← ha]
  rw [step, hturn, runTurn_boundary]

/-- With nothing on its port a step of the boundary is its completion, where there is one (R176). -/
theorem step_of_boundary_no_request (ha : s.turn.agent = .boundary) (hport : s.tbPort = none) :
    step s = .next ((giveDelayDone s.atTurn).getD s.atTurn) := by
  rw [step_of_boundary ha, microTurn_boundary_of_no_request (s := s.atTurn) hport]

end Sys2Proof.Machine

namespace Sys2Proof

open Machine

/-- Settles O44: each micro-step leaves the lines or sends the word they then show, and a step is a chain of micro-steps. -/
theorem linesHoldLastWord : Obligations.LinesHoldLastWord := by
  unfold Obligations.LinesHoldLastWord
  intro s t hstep hchanged
  obtain ⟨es, htrace, hline⟩ := step_linesFollow hstep
  rw [htrace, List.drop_left]
  exact hline.resolve_left hchanged

/-- Settles O20: the boundary takes the word when it accepts, and otherwise the word waits. -/
theorem sendCompletes : Obligations.SendCompletes := by
  unfold Obligations.SendCompletes
  intro w s
  refine ⟨fun hr => ?accepted, fun hr => ?refused⟩
  case accepted => exact ⟨takeSend w s, execSend_of_accepted w hr, rfl, takeSend_line w s⟩
  case refused => exact execSend_of_refused w hr

/-- Settles O21: a `DELAY` has no guard, and the word the lines show stays. -/
theorem delayCompletes : Obligations.DelayCompletes := by
  unfold Obligations.DelayCompletes
  exact fun n s => ⟨takeDelay n s, rfl, rfl, takeDelay_line n s⟩

/-- Settles O35: with nothing on its port the boundary's turn is its completion, which only a running delay has. -/
theorem boundaryCompletionStep : Obligations.BoundaryCompletionStep := by
  unfold Obligations.BoundaryCompletionStep
  intro s ha hport
  rw [step_of_boundary_no_request ha hport]
  refine ⟨fun hpend => ?running, fun hpend => ?idle⟩
  case running =>
    rw [giveDelayDone_of_running (s := s.atTurn) hpend]
    rfl
  case idle =>
    rw [giveDelayDone_of_idle (s := s.atTurn) hpend]
    rfl

end Sys2Proof
end

section
/-! The frames of the streamer's and the boundary's turns (R10, R176, R194), each as one tuple of what the agent's micro-steps leave alone. -/

namespace Sys2Proof.Machine

variable {s s' t : State}

/-! ## The streamer -/

/-- What a turn of the streamer leaves alone: the shared record, the host engine with its trace, the boundary's port, and `Q`. -/
def State.outsideStreamer (s : State) :
    (Levels × Sequence) × (HPhase × HKind × Levels × Sequence) × List HostEvent × Option TbRequest × Quantum :=
  ((s.levels, s.steps), (s.hph, s.hkind, s.hlv, s.hbuf), s.hostTrace, s.tbPort, s.quantum)

@[simp] theorem State.advance_outsideStreamer (s : State) : s.advance.outsideStreamer = s.outsideStreamer := by
  rw [State.advance_eq]
  rfl

theorem strmMicro_outsideStreamer (h : strmMicro s = some s') : s'.outsideStreamer = s.outsideStreamer := by
  rcases strmMicro_cases h with
    ⟨-, -, rfl⟩ | ⟨-, rfl⟩ | ⟨-, rfl⟩ | ⟨-, -, rfl⟩ | ⟨-, -, -, rfl⟩ | ⟨-, rfl⟩ | ⟨-, -, rfl⟩
  case inr.inr.inr.inl => exact State.advance_outsideStreamer s
  case inr.inr.inr.inr.inr.inr => exact State.advance_outsideStreamer _
  all_goals rfl

/-- The boundary's completion, which a whole `EMIT` has inside it, is of the same frame. -/
theorem MicroStep.outsideStreamer_eq (h : MicroStep .strm s s') : s'.outsideStreamer = s.outsideStreamer := by
  cases h with
  | strm h => exact strmMicro_outsideStreamer h
  | complete _ h =>
    obtain ⟨-, rfl⟩ := giveDelayDone_eq_some.mp h
    rfl

theorem step_outsideStreamer (ha : s.turn.agent = .strm) (h : step s = .next t) :
    t.outsideStreamer = s.outsideStreamer :=
  step_keeps (P := fun u => u.outsideStreamer = s.outsideStreamer) (fun _ => rfl)
    (fun _ _ hm hu => (MicroStep.outsideStreamer_eq (ha ▸ hm)).trans hu) h rfl

/-! ## The boundary -/

/-- What a turn of the boundary leaves alone: the block's ten registers, the host trace and `Q`. -/
def State.outsideBoundary (s : State) : Block × List HostEvent × Quantum := (s.toBlock, s.hostTrace, s.quantum)

theorem MicroStep.outsideBoundary_eq (h : MicroStep .boundary s s') : s'.outsideBoundary = s.outsideBoundary := by
  cases h with
  | complete _ h =>
    obtain ⟨-, rfl⟩ := giveDelayDone_eq_some.mp h
    rfl
  | takeSend w _ => rfl
  | takeDelay n _ => rfl

theorem step_outsideBoundary (ha : s.turn.agent = .boundary) (h : step s = .next t) :
    t.outsideBoundary = s.outsideBoundary :=
  step_keeps (P := fun u => u.outsideBoundary = s.outsideBoundary) (fun _ => rfl)
    (fun _ _ hm hu => (MicroStep.outsideBoundary_eq (ha ▸ hm)).trans hu) h rfl

/-- The completion, or the wait where no delay runs: the running delay becomes a `DELAY_DONE`, and nothing else changes (R176). -/
theorem giveDelayDone_getD (s : State) :
    (giveDelayDone s).getD s = { s with tbPend := none, delayDone := s.tbPend.isSome || s.delayDone } := by
  cases hpend : s.tbPend with
  | none =>
    rw [giveDelayDone_of_idle hpend, Option.getD_none, Option.isSome_none, Bool.false_or, ← hpend]
  | some n =>
    rw [giveDelayDone_of_running (by simp [hpend]), Option.getD_some, Option.isSome_some, Bool.true_or]
    rfl

end Sys2Proof.Machine

namespace Sys2Proof

open Machine

/-- Settles O37: a turn of the streamer is a chain of its micro-steps and the boundary's completion, and each keeps what is
outside the streamer. -/
theorem streamerTurnFrame : Obligations.StreamerTurnFrame := by
  unfold Obligations.StreamerTurnFrame
  intro s t ha h
  have hout := step_outsideStreamer ha h
  simp only [State.outsideStreamer, Prod.mk.injEq] at hout
  obtain ⟨⟨hlevels, hsteps⟩, ⟨hhph, hhkind, hhlv, hhbuf⟩, htrace, hport, hquantum⟩ := hout
  exact ⟨hlevels, hsteps, hhph, hhkind, hhlv, hhbuf, htrace, hport, hquantum⟩

/-- Settles O38: the boundary's micro-steps keep what is outside it, and with nothing on its port its turn is its completion,
which touches neither the lines nor the trace. -/
theorem boundaryTurnFrame : Obligations.BoundaryTurnFrame := by
  unfold Obligations.BoundaryTurnFrame
  intro s t ha h
  have hout := step_outsideBoundary ha h
  simp only [State.outsideBoundary, Prod.mk.injEq] at hout
  obtain ⟨hblock, htrace, hquantum⟩ := hout
  refine ⟨hblock, htrace, hquantum, fun hport => ?noRequest⟩
  case noRequest =>
    rw [step_of_boundary_no_request ha hport, giveDelayDone_getD] at h
    cases h
    exact ⟨rfl, rfl, hport⟩

end Sys2Proof
end

section
/-! Every step goes on (R185, R192): a turn never stops the machine (`runTurn_micro`), and it is counted once, when it begins, whatever its
micro-steps are. -/

namespace Sys2Proof.Machine

variable {s s' : State} {a : Agent}

@[simp] theorem State.atTurn_turnNo (s : State) : s.atTurn.turnNo = s.turnNo + 1 := rfl

@[simp] theorem State.advance_turnNo (s : State) : s.advance.turnNo = s.turnNo := by rw [State.advance_eq]

@[simp] theorem latchWord_turnNo (w : HcWord) (s : State) : (latchWord w s).turnNo = s.turnNo := by
  unfold latchWord
  split
  · rfl
  · split
    · rfl
    · rfl

theorem hostContinue_turnNo (h : hostContinue s = some s') : s'.turnNo = s.turnNo := by
  rcases hostContinue_cases h with ⟨-, -, rfl⟩ | ⟨-, rfl⟩ | ⟨-, rfl⟩ | ⟨-, rfl⟩ | ⟨-, rfl⟩ | ⟨-, -, rfl⟩ <;> rfl

theorem strmMicro_turnNo (h : strmMicro s = some s') : s'.turnNo = s.turnNo := by
  rcases strmMicro_cases h with
    ⟨-, -, rfl⟩ | ⟨-, rfl⟩ | ⟨-, rfl⟩ | ⟨-, -, rfl⟩ | ⟨-, -, -, rfl⟩ | ⟨-, rfl⟩ | ⟨-, -, rfl⟩
  case inr.inr.inr.inl => exact State.advance_turnNo s
  case inr.inr.inr.inr.inr.inr => exact State.advance_turnNo _
  all_goals rfl

theorem MicroStep.turnNo_eq (h : MicroStep a s s') : s'.turnNo = s.turnNo := by
  cases h with
  | accept w _ => exact latchWord_turnNo w _
  | host h => exact hostContinue_turnNo h
  | strm h => exact strmMicro_turnNo h
  | complete _ h =>
    obtain ⟨-, rfl⟩ := giveDelayDone_eq_some.mp h
    rfl
  | takeSend w _ => rfl
  | takeDelay n _ => rfl

theorem microSteps_turnNo (h : MicroSteps a s s') : s'.turnNo = s.turnNo := by
  induction h with
  | refl => rfl
  | tail _ hstep ih => exact hstep.turnNo_eq.trans ih

end Sys2Proof.Machine

namespace Sys2Proof

open Machine

/-- Settles O41: a turn answers a next state that its micro-steps lead to, and of these none counts a turn. -/
theorem everyStepGoesOn : Obligations.EveryStepGoesOn := by
  unfold Obligations.EveryStepGoesOn
  intro s
  obtain ⟨t, hnext, hmicro⟩ := runTurn_micro s.turn s.atTurn
  exact ⟨t, hnext, (microSteps_turnNo hmicro).trans s.atTurn_turnNo⟩

end Sys2Proof
end

section
/-! Reset (R211, R212). The nine Steps at reset are the case of level 0 of what `REFLECT` makes of eight equal levels. -/

namespace Sys2Proof.Machine

/-- Equal levels leave the channels in index order: the key falls back on the channel (R91). -/
theorem sortChannels_replicate (v : Level) : sortChannels (Vector.replicate 8 v) = channels := by
  refine (eq_sortChannels (List.Perm.refl _) ?_).symm
  have hkey (c : Channel) : sortKey (Vector.replicate 8 v) c = v.toNat * 8 + c.val := by simp [sortKey]
  have hascending : channels.Pairwise (· < ·) := by decide
  simpa only [hkey, Nat.add_lt_add_iff_left, Fin.val_fin_lt] using hascending

/-- With equal levels the first Step lasts the common level, the trailing one the rest of the cycle, and those between, in which
the channels go off in index order, last nothing (R93, R94). -/
theorem reflect_replicate (v : Level) :
    reflect (Vector.replicate 8 v) =
      #v[⟨0xFF, v⟩, ⟨0xFE, 0⟩, ⟨0xFC, 0⟩, ⟨0xF8, 0⟩, ⟨0xF0, 0⟩, ⟨0xE0, 0⟩, ⟨0xC0, 0⟩, ⟨0x80, 0⟩, ⟨0x00, 255 - v⟩] := by
  have hsteps : reflectSteps (Vector.replicate 8 v) =
      [⟨0xFF, v⟩, ⟨0xFE, 0⟩, ⟨0xFC, 0⟩, ⟨0xF8, 0⟩, ⟨0xF0, 0⟩, ⟨0xE0, 0⟩, ⟨0xC0, 0⟩, ⟨0x80, 0⟩, ⟨0x00, 255 - v⟩] := by
    simp [reflectSteps, sortChannels_replicate, channels, reflectLoop, clearChannel, Config.maskInit, Config.cycle]
  exact Vector.toList_inj.mp ((reflect_toList _).trans hsteps)

end Sys2Proof.Machine

namespace Sys2Proof

open Machine

/-- Settles O1: the registers are read off the reset state, and the nine Steps are `reflect_replicate` at level 0. -/
theorem resetValues : Obligations.ResetValues := by
  unfold Obligations.ResetValues
  exact fun _ => ⟨rfl, rfl, reflect_replicate 0, rfl, rfl, rfl, rfl⟩

/-- Settles O2: at reset nobody holds the lock, no command or delay is in hand, and `STEPS` is `REFLECT` of the levels. -/
theorem resetMeetsInvariant : Obligations.ResetMeetsInvariant := by
  unfold Obligations.ResetMeetsInvariant
  exact inv_resetWith

end Sys2Proof
end
